-- ==== Sys2Proof/Word.lean ====
section
/-! DEFINITION. The value types of the block (spec 00_scope.md R9, R10): every value is unsigned. -/

namespace Sys2Proof

/-- A register, timer or memory byte: 8 bits (R10). -/
abbrev Byte := BitVec 8

/-- I, pc, a return address or an opcode: 16 bits (R10). -/
abbrev Word := BitVec 16

/-- The number of a general register V0 to VF, or of a key (R20, R28). -/
abbrev Reg := Fin 16

end Sys2Proof
end

