-- ==== Sys2Proof/Syntax.lean ====
section
/-! DEFINITION. The instructions: one constructor per row of spec/opcode_table.json, with the fields the row's shape
reads (spec 30_encoding.md R72). Registers are numbers, immediates are zero-extended at their use (R73). -/

namespace Sys2Proof

/-- One instruction of the block. `x`, `y` are register numbers, `kk` an 8-bit and `nnn` a 12-bit immediate, `n` a
sprite height from 0 to 15. -/
inductive Instr
  /-- 00E0: clear the display (R154). -/
  | cls
  /-- 00EE: return from subroutine (R104). -/
  | ret
  /-- 0nnn other than 00E0 and 00EE: legacy system call (R103). -/
  | sys (nnn : BitVec 12)
  /-- 1nnn: jump (R105). -/
  | jp (nnn : BitVec 12)
  /-- 2nnn: call subroutine (R106). -/
  | call (nnn : BitVec 12)
  /-- 3xkk: skip if Vx equals the immediate (R107). -/
  | seImm (x : Reg) (kk : Byte)
  /-- 4xkk: skip if Vx differs from the immediate (R108). -/
  | sneImm (x : Reg) (kk : Byte)
  /-- 5xy0: skip if Vx equals Vy (R109). -/
  | seReg (x y : Reg)
  /-- 6xkk: load an immediate (R120). -/
  | ldImm (x : Reg) (kk : Byte)
  /-- 7xkk: add an immediate, no flag (R121). -/
  | addImm (x : Reg) (kk : Byte)
  /-- 8xy0: copy Vy to Vx (R122). -/
  | ldReg (x y : Reg)
  /-- 8xy1: bitwise OR (R123). -/
  | orReg (x y : Reg)
  /-- 8xy2: bitwise AND (R124). -/
  | andReg (x y : Reg)
  /-- 8xy3: bitwise XOR (R125). -/
  | xorReg (x y : Reg)
  /-- 8xy4: add, VF is the carry (R130). -/
  | addReg (x y : Reg)
  /-- 8xy5: subtract, VF is the borrow (R131). -/
  | sub (x y : Reg)
  /-- 8xy6: shift Vx right by one; the y field is carried and not read (R132, R77). -/
  | shr (x y : Reg)
  /-- 8xy7: reverse subtract into Vy, VF is the borrow (R133). -/
  | subn (x y : Reg)
  /-- 8xyE: shift Vx left by one; the y field is carried and not read (R134, R77). -/
  | shl (x y : Reg)
  /-- 9xy0: skip if Vx differs from Vy (R110). -/
  | sneReg (x y : Reg)
  /-- Annn: load the index register (R140). -/
  | ldI (nnn : BitVec 12)
  /-- Bnnn: jump with V0 offset (R111). -/
  | jpV0 (nnn : BitVec 12)
  /-- Cxkk: random byte of at most the mask (R141). -/
  | rnd (x : Reg) (kk : Byte)
  /-- Dxyn: draw a sprite of n rows (R153). -/
  | drw (x y : Reg) (n : Fin 16)
  /-- Ex9E: skip if key Vx is pressed (R160). -/
  | skp (x : Reg)
  /-- ExA1: skip if key Vx is not pressed (R161). -/
  | sknp (x : Reg)
  /-- Fx07: read the delay timer (R162). -/
  | ldVxDT (x : Reg)
  /-- Fx0A: wait for a key press (R163). -/
  | ldVxK (x : Reg)
  /-- Fx15, FX-EXT: set the delay timer (R170). -/
  | ldDTVx (x : Reg)
  /-- Fx18, FX-EXT: set the sound timer (R171). -/
  | ldSTVx (x : Reg)
  /-- Fx1E, FX-EXT: add Vx to the index (R172). -/
  | addIVx (x : Reg)
  /-- Fx29, FX-EXT: point I at a font glyph (R173). -/
  | ldFVx (x : Reg)
  /-- Fx33, FX-EXT: store the decimal digits of Vx (R174). -/
  | ldBVx (x : Reg)
  /-- Fx55, FX-EXT: store V0 to Vx at I (R175). -/
  | storeRegs (x : Reg)
  /-- Fx65, FX-EXT: load V0 to Vx from I (R176). -/
  | loadRegs (x : Reg)
  deriving DecidableEq, Repr

end Sys2Proof
end

