-- ==== Sys2Proof/Config.lean ====
section
/-! DEFINITION. The construction-time parameters of the block (spec 00_scope.md R7) and the free values.
The spec's values of FONT_TABLE and FONT_BASE stand in Machine/Memory.lean beside the reset image they define. The register count, the
stack depth, the display size and the timer widths of R7 are the types of State's fields. -/

namespace Sys2Proof.Config

/-- MEM_SIZE (R7, R50). -/
abbrev memSize : Nat := 4096

/-- START_ADDR (R7, R254). -/
def startAddr : Word := 0x200

/-- FX_EXT, at the spec's value: enabled (R7, R177). UNVERIFIED: decision D6 of the spec (log entry 5). -/
def fxExt : Bool := true

/-- The two values of LATCH_RELEASE_POLICY (R225). -/
inductive LatchPolicy
  /-- A release empties the latch if it holds the released key. -/
  | clearIfSame
  /-- A release leaves the latch alone. -/
  | keep
  deriving DecidableEq, Repr

/-- LATCH_RELEASE_POLICY, at the spec's value: ClearIfSame (R7, R225). UNVERIFIED: decision D9 (log entry 6). -/
def latchPolicy : LatchPolicy := .clearIfSame

/-- A value of FONT_TABLE: 80 bytes, the five rows of each glyph in turn (R7, R56). -/
abbrev FontTable := Vector Byte 80

/-- FREE VALUE. The number of cycles a frame has beyond the first, in the parameter CYCLES_PER_FRAME, which the spec
leaves OPEN (R7, D20; log entry 4). -/
opaque extraCyclesPerFrame : Nat

/-- CYCLES_PER_FRAME: open, "The value must be at least 1" (R7). -/
def cyclesPerFrame : Nat := extraCyclesPerFrame + 1

/-- The parameters a block may be built with, fixed while it runs (R7; 93_implementation_defined.md U6, U7, U9, U10).
The block of this model, with the spec's values, is `Machine.specParams`. -/
structure Params where
  /-- FX_EXT: whether the seven FX-EXT opcodes are instructions (R177). -/
  fxExt : Bool
  /-- LATCH_RELEASE_POLICY (R225). -/
  latchPolicy : LatchPolicy
  /-- CYCLES_PER_FRAME (R231). -/
  cyclesPerFrame : Nat
  /-- FONT_TABLE (R56). -/
  fontTable : FontTable
  /-- FONT_BASE (R56, R173). -/
  fontBase : Nat
  deriving DecidableEq, Repr

/-- What R7 asks of the parameters: a frame has a cycle, and the font stands inside memory. -/
def Params.Legal (p : Params) : Prop := 1 ≤ p.cyclesPerFrame ∧ p.fontBase + 80 ≤ memSize

/-- FREE VALUE. What the environment answers to the `n`-th RndDraw when that draw is for `mask`: any number from 0
to `mask`, and nothing else is known of it (R141, R226; log entry 2). -/
opaque rndDraw : (n : Nat) → (mask : Byte) → Fin (mask.toNat + 1)

end Sys2Proof.Config
end

