-- ==== Sys2Proof/WellFormed.lean ====
section
/-! DEFINITION. Which instructions are the meaning of some opcode. The types of Syntax.lean bound every field; two
checks are left: 0nnn excludes 00E0 and 00EE (spec 30_encoding.md R75), and the FX-EXT opcodes exist only when the
parameter FX_EXT is enabled (R78, 44_fx_extension.md R177). -/

namespace Sys2Proof

/-- `i` is the instruction some opcode stands for in a block whose FX_EXT parameter is `fxExt`. -/
def Instr.wf (fxExt : Bool) : Instr → Bool
  | .sys nnn => nnn != 0x0E0 && nnn != 0x0EE
  | .ldDTVx _ => fxExt
  | .ldSTVx _ => fxExt
  | .addIVx _ => fxExt
  | .ldFVx _ => fxExt
  | .ldBVx _ => fxExt
  | .storeRegs _ => fxExt
  | .loadRegs _ => fxExt
  | .cls => true
  | .ret => true
  | .jp _ => true
  | .call _ => true
  | .seImm _ _ => true
  | .sneImm _ _ => true
  | .seReg _ _ => true
  | .ldImm _ _ => true
  | .addImm _ _ => true
  | .ldReg _ _ => true
  | .orReg _ _ => true
  | .andReg _ _ => true
  | .xorReg _ _ => true
  | .addReg _ _ => true
  | .sub _ _ => true
  | .shr _ _ => true
  | .subn _ _ => true
  | .shl _ _ => true
  | .sneReg _ _ => true
  | .ldI _ => true
  | .jpV0 _ => true
  | .rnd _ _ => true
  | .drw _ _ _ => true
  | .skp _ => true
  | .sknp _ => true
  | .ldVxDT _ => true
  | .ldVxK _ => true

/-- Well-formed for the block as the spec builds it (FX_EXT enabled, R177). -/
abbrev Instr.WellFormed (i : Instr) : Prop := i.wf Config.fxExt = true

end Sys2Proof
end

