-- ==== Sys2Proof/Decode.lean ====
section
/-! DEFINITION. The decoder, total on any bytes and rejecting by name (spec 30_encoding.md R70-R79), the encoder
written from the same encodings, and the opcode table as mask and match per instruction. -/

namespace Sys2Proof

/-- `v[hi:lo]` read as an unsigned number (00_scope.md R9). -/
def bits (v : Word) (hi lo : Nat) : Nat := v.toNat / 2 ^ lo % 2 ^ (hi + 1 - lo)

/-- The family nibble `f = op[15:12]` (R71). -/
def fieldF (op : Word) : Nat := bits op 15 12

/-- `x = op[11:8]`, the first register number (R71). -/
def fieldX (op : Word) : Reg := Fin.ofNat 16 (bits op 11 8)

/-- `y = op[7:4]`, the second register number (R71). -/
def fieldY (op : Word) : Reg := Fin.ofNat 16 (bits op 7 4)

/-- `n = op[3:0]` (R71). -/
def fieldN (op : Word) : Fin 16 := Fin.ofNat 16 (bits op 3 0)

/-- `kk = op[7:0]`, the immediate byte (R71). -/
def fieldKK (op : Word) : Byte := BitVec.ofNat 8 (bits op 7 0)

/-- `nnn = op[11:0]`, the address (R71). -/
def fieldNNN (op : Word) : BitVec 12 := BitVec.ofNat 12 (bits op 11 0)

/-- Why a decoder rejects: the opcode is one of R74's `Illegal` arms, or fewer than two bytes are left. -/
inductive DecodeError
  /-- R74 maps this opcode to `Illegal`. -/
  | illegal (op : Word)
  /-- An opcode has two bytes (R70) and fewer were given. -/
  | truncated
  deriving DecidableEq, Repr

/-- Family 0: two opcodes with effects, every other value is the legacy system call (R75). -/
def decode0 (op : Word) : Instr :=
  if op = 0x00E0 then .cls
  else if op = 0x00EE then .ret
  else .sys (fieldNNN op)

/-- Family 8, by the low nibble (R77). -/
def decode8 (op : Word) : Except DecodeError Instr :=
  match bits op 3 0 with
  | 0x0 => .ok (.ldReg (fieldX op) (fieldY op))
  | 0x1 => .ok (.orReg (fieldX op) (fieldY op))
  | 0x2 => .ok (.andReg (fieldX op) (fieldY op))
  | 0x3 => .ok (.xorReg (fieldX op) (fieldY op))
  | 0x4 => .ok (.addReg (fieldX op) (fieldY op))
  | 0x5 => .ok (.sub (fieldX op) (fieldY op))
  | 0x6 => .ok (.shr (fieldX op) (fieldY op))
  | 0x7 => .ok (.subn (fieldX op) (fieldY op))
  | 0xE => .ok (.shl (fieldX op) (fieldY op))
  | _ => .error (.illegal op)

/-- Family E, by the low byte (R78). -/
def decodeE (op : Word) : Except DecodeError Instr :=
  match bits op 7 0 with
  | 0x9E => .ok (.skp (fieldX op))
  | 0xA1 => .ok (.sknp (fieldX op))
  | _ => .error (.illegal op)

/-- An opcode of FX-EXT: an instruction only when the parameter FX_EXT is enabled (R78, R177). -/
def whenFxExt (fxExt : Bool) (op : Word) (i : Instr) : Except DecodeError Instr :=
  if fxExt then .ok i else .error (.illegal op)

/-- Family F, by the low byte (R78). -/
def decodeF (fxExt : Bool) (op : Word) : Except DecodeError Instr :=
  match bits op 7 0 with
  | 0x07 => .ok (.ldVxDT (fieldX op))
  | 0x0A => .ok (.ldVxK (fieldX op))
  | 0x15 => whenFxExt fxExt op (.ldDTVx (fieldX op))
  | 0x18 => whenFxExt fxExt op (.ldSTVx (fieldX op))
  | 0x1E => whenFxExt fxExt op (.addIVx (fieldX op))
  | 0x29 => whenFxExt fxExt op (.ldFVx (fieldX op))
  | 0x33 => whenFxExt fxExt op (.ldBVx (fieldX op))
  | 0x55 => whenFxExt fxExt op (.storeRegs (fieldX op))
  | 0x65 => whenFxExt fxExt op (.loadRegs (fieldX op))
  | _ => .error (.illegal op)

/-- The decode tree of R74, for a block whose parameter FX_EXT is `fxExt`: every 16-bit value is exactly one
instruction or is rejected as illegal. -/
def decodeOp (fxExt : Bool) (op : Word) : Except DecodeError Instr :=
  match fieldF op with
  | 0x0 => .ok (decode0 op)
  | 0x1 => .ok (.jp (fieldNNN op))
  | 0x2 => .ok (.call (fieldNNN op))
  | 0x3 => .ok (.seImm (fieldX op) (fieldKK op))
  | 0x4 => .ok (.sneImm (fieldX op) (fieldKK op))
  | 0x5 => if bits op 3 0 = 0 then .ok (.seReg (fieldX op) (fieldY op)) else .error (.illegal op)
  | 0x6 => .ok (.ldImm (fieldX op) (fieldKK op))
  | 0x7 => .ok (.addImm (fieldX op) (fieldKK op))
  | 0x8 => decode8 op
  | 0x9 => if bits op 3 0 = 0 then .ok (.sneReg (fieldX op) (fieldY op)) else .error (.illegal op)
  | 0xA => .ok (.ldI (fieldNNN op))
  | 0xB => .ok (.jpV0 (fieldNNN op))
  | 0xC => .ok (.rnd (fieldX op) (fieldKK op))
  | 0xD => .ok (.drw (fieldX op) (fieldY op) (fieldN op))
  | 0xE => decodeE op
  | 0xF => decodeF fxExt op
  | _ => .error (.illegal op)

/-- Two bytes as one big-endian opcode: `op = hi * 256 + lo` (20_memory.md R53). -/
def bigEndian (hi lo : Byte) : Word := BitVec.ofNat 16 (hi.toNat * 256 + lo.toNat)

/-- The decoder over bytes: it consumes exactly two, most significant first (R70), and answers the rest. -/
def decode (fxExt : Bool) : List Byte → Except DecodeError (Instr × List Byte)
  | hi :: lo :: rest =>
    match decodeOp fxExt (bigEndian hi lo) with
    | .ok i => .ok (i, rest)
    | .error e => .error e
  | [_] => .error .truncated
  | [] => .error .truncated

/-- An opcode from a family nibble and a 12-bit field: `f` in bits 15..12 (R71). -/
def formNNN (f : Nat) (nnn : BitVec 12) : Word := BitVec.ofNat 16 (f * 4096 + nnn.toNat)

/-- An opcode from `f`, a register in bits 11..8 and a byte in bits 7..0 (R71). -/
def formXKK (f : Nat) (x : Reg) (kk : Nat) : Word := BitVec.ofNat 16 (f * 4096 + x.val * 256 + kk)

/-- An opcode from `f`, two registers in bits 11..8 and 7..4 and a low nibble (R71). -/
def formXYN (f : Nat) (x y : Reg) (n : Nat) : Word :=
  BitVec.ofNat 16 (f * 4096 + x.val * 256 + y.val * 16 + n)

/-- The opcode of an instruction, as its rule's "Encoding" line writes it. -/
def encode : Instr → Word
  | .cls => 0x00E0
  | .ret => 0x00EE
  | .sys nnn => formNNN 0x0 nnn
  | .jp nnn => formNNN 0x1 nnn
  | .call nnn => formNNN 0x2 nnn
  | .seImm x kk => formXKK 0x3 x kk.toNat
  | .sneImm x kk => formXKK 0x4 x kk.toNat
  | .seReg x y => formXYN 0x5 x y 0x0
  | .ldImm x kk => formXKK 0x6 x kk.toNat
  | .addImm x kk => formXKK 0x7 x kk.toNat
  | .ldReg x y => formXYN 0x8 x y 0x0
  | .orReg x y => formXYN 0x8 x y 0x1
  | .andReg x y => formXYN 0x8 x y 0x2
  | .xorReg x y => formXYN 0x8 x y 0x3
  | .addReg x y => formXYN 0x8 x y 0x4
  | .sub x y => formXYN 0x8 x y 0x5
  | .shr x y => formXYN 0x8 x y 0x6
  | .subn x y => formXYN 0x8 x y 0x7
  | .shl x y => formXYN 0x8 x y 0xE
  | .sneReg x y => formXYN 0x9 x y 0x0
  | .ldI nnn => formNNN 0xA nnn
  | .jpV0 nnn => formNNN 0xB nnn
  | .rnd x kk => formXKK 0xC x kk.toNat
  | .drw x y n => formXYN 0xD x y n.val
  | .skp x => formXKK 0xE x 0x9E
  | .sknp x => formXKK 0xE x 0xA1
  | .ldVxDT x => formXKK 0xF x 0x07
  | .ldVxK x => formXKK 0xF x 0x0A
  | .ldDTVx x => formXKK 0xF x 0x15
  | .ldSTVx x => formXKK 0xF x 0x18
  | .addIVx x => formXKK 0xF x 0x1E
  | .ldFVx x => formXKK 0xF x 0x29
  | .ldBVx x => formXKK 0xF x 0x33
  | .storeRegs x => formXKK 0xF x 0x55
  | .loadRegs x => formXKK 0xF x 0x65

/-- The high byte of an opcode, stored first (R70). -/
def hiByte (op : Word) : Byte := BitVec.ofNat 8 (bits op 15 8)

/-- The low byte of an opcode, stored second (R70). -/
def loByte (op : Word) : Byte := BitVec.ofNat 8 (bits op 7 0)

/-- The two bytes of an opcode as memory stores them, most significant first (R53, R70). -/
def opBytes (op : Word) : List Byte := [hiByte op, loByte op]

/-- One row of spec/opcode_table.json: the opcodes `op` with `op AND mask = pattern`. -/
structure TableRow where
  /-- The bits the row fixes. -/
  mask : Word
  /-- Their values. -/
  pattern : Word
  deriving DecidableEq, Repr

/-- The row of spec/opcode_table.json an instruction stands for. -/
def Instr.row : Instr → TableRow
  | .cls => ⟨0xFFFF, 0x00E0⟩
  | .ret => ⟨0xFFFF, 0x00EE⟩
  | .sys _ => ⟨0xF000, 0x0000⟩
  | .jp _ => ⟨0xF000, 0x1000⟩
  | .call _ => ⟨0xF000, 0x2000⟩
  | .seImm _ _ => ⟨0xF000, 0x3000⟩
  | .sneImm _ _ => ⟨0xF000, 0x4000⟩
  | .seReg _ _ => ⟨0xF00F, 0x5000⟩
  | .ldImm _ _ => ⟨0xF000, 0x6000⟩
  | .addImm _ _ => ⟨0xF000, 0x7000⟩
  | .ldReg _ _ => ⟨0xF00F, 0x8000⟩
  | .orReg _ _ => ⟨0xF00F, 0x8001⟩
  | .andReg _ _ => ⟨0xF00F, 0x8002⟩
  | .xorReg _ _ => ⟨0xF00F, 0x8003⟩
  | .addReg _ _ => ⟨0xF00F, 0x8004⟩
  | .sub _ _ => ⟨0xF00F, 0x8005⟩
  | .shr _ _ => ⟨0xF00F, 0x8006⟩
  | .subn _ _ => ⟨0xF00F, 0x8007⟩
  | .shl _ _ => ⟨0xF00F, 0x800E⟩
  | .sneReg _ _ => ⟨0xF00F, 0x9000⟩
  | .ldI _ => ⟨0xF000, 0xA000⟩
  | .jpV0 _ => ⟨0xF000, 0xB000⟩
  | .rnd _ _ => ⟨0xF000, 0xC000⟩
  | .drw _ _ _ => ⟨0xF000, 0xD000⟩
  | .skp _ => ⟨0xF0FF, 0xE09E⟩
  | .sknp _ => ⟨0xF0FF, 0xE0A1⟩
  | .ldVxDT _ => ⟨0xF0FF, 0xF007⟩
  | .ldVxK _ => ⟨0xF0FF, 0xF00A⟩
  | .ldDTVx _ => ⟨0xF0FF, 0xF015⟩
  | .ldSTVx _ => ⟨0xF0FF, 0xF018⟩
  | .addIVx _ => ⟨0xF0FF, 0xF01E⟩
  | .ldFVx _ => ⟨0xF0FF, 0xF029⟩
  | .ldBVx _ => ⟨0xF0FF, 0xF033⟩
  | .storeRegs _ => ⟨0xF0FF, 0xF055⟩
  | .loadRegs _ => ⟨0xF0FF, 0xF065⟩

/-- The opcode that an instruction numbered as spec/opcode_table.json numbers it stands for: bits at and above
`nbits` are zero, and an opcode has 16 bits (R70). -/
def tableOpcode (nbits w : Nat) : Word := BitVec.ofNat 16 (w % 2 ^ nbits)

/-- The instruction the decoder reads from an opcode-table word, laid out in memory order first. -/
def decodeTableWord (nbits w : Nat) : Option Instr :=
  match decode Config.fxExt (opBytes (tableOpcode nbits w)) with
  | .ok (i, _) => some i
  | .error _ => none

end Sys2Proof
end

