-- ==== Sys2Proof/Machine/State.lean ====
section
/-! DEFINITION. The state of the block (spec 10_state.md R20-R37), what can stop a step, and the reset state. -/

namespace Sys2Proof.Machine

/-- The 4096 bytes of memory (R31) as plain data: (address, byte) pairs with addresses strictly rising, an address
that is not listed reading as the reset image (Machine/Memory.lean). -/
abbrev Memory := List Host.Cell

/-- The display, `pix[x][y]` with column `x` in 0..63 and row `y` in 0..31 (R30). -/
abbrev Display := Vector (Vector Bool 32) 64

/-- The five fault kinds with the info each records (60_exceptions.md R200). -/
inductive FaultCause
  /-- Code 1: `addr` is the lowest address of the access at or above MEM_SIZE (R201). -/
  | memoryOutOfRange (addr : Nat)
  /-- Code 2: `key` is the value of Vx (R202). -/
  | keyOutOfRange (key : Byte)
  /-- Code 3: a push with `sp` entries in use (R203). -/
  | stackOverflow (sp : Fin 17)
  /-- Code 4: a pop with `sp` entries in use (R204). -/
  | stackUnderflow (sp : Fin 17)
  /-- Code 5: the opcode that decodes to no instruction (R205). -/
  | illegalInstruction (op : Word)
  deriving DecidableEq, Repr

/-- A fault record (R200): its cause carries kind and info, and `fpc` is the address of the opcode whose cycle
faulted. Its code is `FaultCause.code` of the cause (Machine/Ops.lean). -/
structure FaultRecord where
  /-- Kind and info. -/
  cause : FaultCause
  /-- The address of the faulting opcode. -/
  fpc : Word
  deriving DecidableEq, Repr

/-- The run state, which gates run_frame only (R33, R235). -/
inductive RunState
  /-- run_frame executes cycles. -/
  | running
  /-- run_frame does nothing: the source's pause and stop. -/
  | stopped
  deriving DecidableEq, Repr

/-- The complete state of the block (R36, R37), and after it two fields that are the model's own. -/
structure State where
  /-- The general registers V0 to VF (R20); V[15] is the flag register (R21). -/
  V : Vector Byte 16
  /-- The index register (R23). -/
  I : Word
  /-- The program counter (R24). -/
  pc : Word
  /-- The number of return addresses in use (R25, R26). -/
  sp : Fin 17
  /-- The return stack; entries at and above `sp` are stale (R25). -/
  stack : Vector Word 16
  /-- The delay timer (R27). -/
  DT : Byte
  /-- The sound timer (R27). -/
  ST : Byte
  /-- Which keys are pressed (R28). -/
  key : Vector Bool 16
  /-- The last-pressed slot of the keyboard (R29). -/
  latch : Option (Fin 16)
  /-- The display cells (R30). -/
  pix : Display
  /-- Memory (R31). -/
  mem : Memory
  /-- The fault the block has failed with, if any (R32). -/
  fault : Option FaultRecord
  /-- Running or stopped (R33). -/
  run : RunState
  /-- The MODEL's own: how many random bytes the environment has answered; it indexes the free value of Cxkk
  (R226, log entry 2). -/
  draws : Nat
  /-- The MODEL's own: the opcodes the warning output has carried, oldest first; an output, which nothing reads
  (R228, log entry 3). -/
  warnings : List Word
  deriving DecidableEq, Repr

/-- Why the machine stops. -/
inductive Fault
  /-- Raised by `step` while a fault is recorded: "`execute` is refused. It returns `Faulted(record)` again and
  changes nothing" (60_exceptions.md R211). Safe: the block itself stops there. -/
  | faulted (record : FaultRecord)
  deriving DecidableEq, Repr

/-- Why the model has no meaning to give. -/
inductive Refusal
  /-- Raised by an arm of `exec` whose instruction has no meaning yet. Safe: it claims nothing. -/
  | notModelled (mnemonic : String)
  deriving DecidableEq, Repr

/-- The three outcomes of a step over this state. -/
abbrev Outcome := Host.Outcome State Fault Refusal

/-- The machine right after reset (70_reset_and_hazards.md R250, R251). Memory lists nothing: every byte reads as the
reset image. The values of R36 that rest on decision D13 are log entry 8; `draws` and `warnings` are the model's own
(log entries 2 and 3, DESIGN CHOICE). -/
def State.reset : State where
  V := Vector.replicate 16 0
  I := 0
  pc := Config.startAddr
  sp := 0
  stack := Vector.replicate 16 0
  DT := 0
  ST := 0
  key := Vector.replicate 16 false
  latch := none
  pix := Vector.replicate 64 (Vector.replicate 32 false)
  mem := []
  fault := none
  run := .stopped
  draws := 0
  warnings := []

end Sys2Proof.Machine
end

