-- ==== Sys2Proof/Machine/Memory.lean ====
section
/-! DEFINITION. Memory: the font and the reset image, one byte read and written in the canonical form, and the
bounds-checked accesses of spec 00_scope.md R12 and 20_memory.md R50-R57. -/

namespace Sys2Proof.Machine

/-- FONT_BASE: the font stands at the lowest addresses (R7, R56; UNVERIFIED, log entry 7). -/
def fontBase : Nat := 0x000

/-- FONT_TABLE at the spec's default: 16 glyphs of 5 rows (R56; UNVERIFIED, log entry 7). -/
def fontTable : List Byte :=
  [0xF0, 0x90, 0x90, 0x90, 0xF0,  0x20, 0x60, 0x20, 0x20, 0x70] ++
  [0xF0, 0x10, 0xF0, 0x80, 0xF0,  0xF0, 0x10, 0xF0, 0x10, 0xF0] ++
  [0x90, 0x90, 0xF0, 0x10, 0x10,  0xF0, 0x80, 0xF0, 0x10, 0xF0] ++
  [0xF0, 0x80, 0xF0, 0x90, 0xF0,  0xF0, 0x10, 0x20, 0x40, 0x40] ++
  [0xF0, 0x90, 0xF0, 0x90, 0xF0,  0xF0, 0x90, 0xF0, 0x10, 0xF0] ++
  [0xF0, 0x90, 0xF0, 0x90, 0x90,  0xE0, 0x90, 0xE0, 0x90, 0xE0] ++
  [0xF0, 0x80, 0x80, 0x80, 0xF0,  0xE0, 0x90, 0x90, 0x90, 0xE0] ++
  [0xF0, 0x80, 0xF0, 0x80, 0xF0,  0xF0, 0x80, 0xF0, 0x80, 0x80]

/-- The default value of FONT_TABLE, as a parameter. -/
def defaultFont : Config.FontTable := ⟨fontTable.toArray, rfl⟩

/-- The block as the spec builds it: every parameter at the value R7 gives it. -/
def specParams : Config.Params where
  fxExt := Config.fxExt
  latchPolicy := Config.latchPolicy
  cyclesPerFrame := Config.cyclesPerFrame
  fontTable := defaultFont
  fontBase := fontBase

/-- The reset image of a block: its font from `base` on, zero everywhere else (R56, R57). -/
def resetByteWith (base : Nat) (font : Config.FontTable) (a : Nat) : Byte :=
  if base ≤ a then font.toList.getD (a - base) 0 else 0

/-- What an address that memory does not list reads as: the reset image of the block as the spec builds it (R57). A
block built with another font lists the bytes in which its own image differs (`resetMemory`; log entry 13). -/
def resetByte (a : Nat) : Byte := resetByteWith fontBase defaultFont a

/-- The byte at address `a` (R50). -/
def Memory.read : Memory → Nat → Byte
  | [], a => resetByte a
  | (b, v) :: m, a => if a = b then v else Memory.read m a

/-- Memory with byte `v` at address `a`, in canonical form again: an entry equal to the reset image is not listed. -/
def Memory.write : Memory → Nat → Byte → Memory
  | [], a, v => if v = resetByte a then [] else [(a, v)]
  | (b, w) :: m, a, v =>
    if a < b then (if v = resetByte a then (b, w) :: m else (a, v) :: (b, w) :: m)
    else if a = b then (if v = resetByte a then m else (a, v) :: m)
    else (b, w) :: Memory.write m a v

/-- The canonical form of a list whose addresses are all at or above `low`: strictly rising, inside the address
space, and no entry equal to what its address reads as when it is not listed. -/
def Memory.wfFrom : Nat → Memory → Bool
  | _, [] => true
  | low, (a, v) :: m =>
    decide (low ≤ a) && decide (a < Config.memSize) && decide (v ≠ resetByte a) && Memory.wfFrom (a + 1) m

/-- Memory is in canonical form. -/
def Memory.wf (m : Memory) : Bool := Memory.wfFrom 0 m

/-- The bytes at `a`, …, `a + n - 1`, without a check. -/
def Memory.readList (m : Memory) : Nat → Nat → List Byte
  | _, 0 => []
  | a, n + 1 => m.read a :: Memory.readList m (a + 1) n

/-- Memory with the given bytes at `a`, `a + 1`, …, in ascending order, without a check (R53). -/
def Memory.writeList : Memory → Nat → List Byte → Memory
  | m, _, [] => m
  | m, a, v :: vs => Memory.writeList (m.write a v) (a + 1) vs

/-- The memory of a block right after reset: its font from `base` on, zero everywhere else (R56, R57). An empty
list reads as the default font in the 80 lowest bytes, so those below `base` are zeroed first. -/
def resetMemory (base : Nat) (font : Config.FontTable) : Memory :=
  (Memory.writeList [] 0 (List.replicate (min base 80) 0)).writeList base font.toList

/-- The bounds check of an access to the `n` bytes at `a`: the lowest address at or above MEM_SIZE, if there is one.
Addresses are exact sums and never wrap; an access of no byte touches nothing (R52, 00_scope.md R12). -/
def firstOut (a n : Nat) : Option Nat :=
  if n = 0 ∨ a + n ≤ Config.memSize then none else some (max a Config.memSize)

/-- `MemReadBytes(a, n)` (00_scope.md R12). -/
def memReadBytes (m : Memory) (a n : Nat) : Except FaultCause (List Byte) :=
  match firstOut a n with
  | some b => .error (.memoryOutOfRange b)
  | none => .ok (m.readList a n)

/-- `MemRead(a, 2)`, the big-endian pair (00_scope.md R12, 20_memory.md R53). -/
def memReadPair (m : Memory) (a : Nat) : Except FaultCause Word :=
  match firstOut a 2 with
  | some b => .error (.memoryOutOfRange b)
  | none => .ok (bigEndian (m.read a) (m.read (a + 1)))

/-- Store bytes in ascending address order, the whole access checked before any byte is written (R12, R52). -/
def memWriteBytes (m : Memory) (a : Nat) (vs : List Byte) : Except FaultCause Memory :=
  match firstOut a vs.length with
  | some b => .error (.memoryOutOfRange b)
  | none => .ok (m.writeList a vs)

end Sys2Proof.Machine
end

