-- ==== Sys2Proof/Machine/Ops.lean ====
section
/-! DEFINITION. The named operations over the state that the meanings share: registers, pc, stack, timers, latch,
the random-byte and warning ports, and TAKING A FAULT, once. Every meaning and `exec` are given the state at the
START of the cycle, where pc is the address of the opcode being executed (log entry 10). -/

namespace Sys2Proof.Machine

/-- The value of a general register (spec 10_state.md R20). -/
def State.reg (s : State) (x : Reg) : Byte := s.V[x]

/-- Write a general register (R20): any register, VF included. -/
def State.setReg (s : State) (x : Reg) (v : Byte) : State := { s with V := s.V.set x v }

/-- VF, the flag register (R21). -/
def vF : Reg := 15

/-- Write the flag register. -/
def State.setFlag (s : State) (v : Byte) : State := s.setReg vF v

/-- `npc`: the address after the instruction, modulo 2^16 (00_scope.md R15, 10_state.md R24). -/
def State.npc (s : State) : Word := s.pc + 2

/-- `pc <- target`. -/
def State.setPc (s : State) (target : Word) : State := { s with pc := target }

/-- The end of a cycle whose instruction writes no pc: pc is left at npc (40_control.md R100). -/
def State.advance (s : State) : State := s.setPc s.npc

/-- A conditional instruction: past the next two bytes if `c`, else to the next instruction (R112). -/
def State.skipIf (s : State) (c : Bool) : State := if c then s.setPc (s.npc + 2) else s.advance

/-- `I <- v` (R23). -/
def State.setI (s : State) (v : Word) : State := { s with I := v }

/-- `DT <- v` (R27). -/
def State.setDT (s : State) (v : Byte) : State := { s with DT := v }

/-- `ST <- v` (R27). -/
def State.setST (s : State) (v : Byte) : State := { s with ST := v }

/-- Write the latch (R29). -/
def State.setLatch (s : State) (l : Option (Fin 16)) : State := { s with latch := l }

/-- Write the display (R30). -/
def State.setPix (s : State) (d : Display) : State := { s with pix := d }

/-- Write memory (R31). -/
def State.setMem (s : State) (m : Memory) : State := { s with mem := m }

/-- The fault codes of 60_exceptions.md R200. -/
def FaultCause.code : FaultCause → Nat
  | .memoryOutOfRange _ => 1
  | .keyOutOfRange _ => 2
  | .stackOverflow _ => 3
  | .stackUnderflow _ => 4
  | .illegalInstruction _ => 5

/-- Taking a fault, from the state at the start of the cycle: nothing of the cycle is committed, pc stays at the
faulting opcode, and the record is latched (R208, R13). There is no handler and no trap return (R209, R210): only the
host's reset or ROM load clears the record (Machine/HostOps.lean). -/
def State.takeFault (s : State) (c : FaultCause) : State := { s with fault := some ⟨c, s.pc⟩ }

/-- The cycle ends in a fault: the block moves to its Faulted state, which is a next state (log entry 1). -/
def State.raise (s : State) (c : FaultCause) : Outcome := .next (s.takeFault c)

/-- The cycle is atomic: either all of an instruction's effects, or the fault its check found (R100, R207). -/
def State.commit (s : State) (r : Except FaultCause State) : Outcome :=
  match r with
  | .ok t => .next t
  | .error c => s.raise c

/-- Push a return address; the check for a full stack comes first (R106). -/
def State.push (s : State) (a : Word) : Except FaultCause State :=
  if h : s.sp.val < 16 then
    .ok { s with stack := s.stack.set s.sp.val a, sp := ⟨s.sp.val + 1, by omega⟩ }
  else .error (.stackOverflow s.sp)

/-- Pop a return address into pc; the entry is not cleared, and an empty stack faults (R104, R25). -/
def State.popPc (s : State) : Except FaultCause State :=
  if h : s.sp.val = 0 then .error (.stackUnderflow s.sp)
  else .ok { s with pc := s.stack[s.sp.val - 1]'(by omega), sp := ⟨s.sp.val - 1, by omega⟩ }

/-- `key[k]` for a key number read from a register; a number of 16 or more is out of range (R160, R202). -/
def State.keyAt (s : State) (k : Byte) : Except FaultCause Bool :=
  if h : k.toNat < 16 then .ok (s.key[k.toNat]) else .error (.keyOutOfRange k)

/-- `RndDraw(mask)`: the byte the environment answers next, a FREE VALUE of at most `mask` (R226, log entry 2). -/
def State.rndDraw (s : State) (mask : Byte) : Byte := BitVec.ofNat 8 (Config.rndDraw s.draws mask).val

/-- One random byte has been taken: each Cxkk draws exactly once (R141). -/
def State.countDraw (s : State) : State := { s with draws := s.draws + 1 }

/-- `Warn(op)`: one event on the warning output (R228, log entry 3). -/
def State.warn (s : State) (op : Word) : State := { s with warnings := s.warnings ++ [op] }

/-- Write consecutive registers from number `i` up (R176). -/
def setRegs : Vector Byte 16 → Nat → List Byte → Vector Byte 16
  | V, _, [] => V
  | V, i, v :: vs => setRegs (V.setIfInBounds i v) (i + 1) vs

end Sys2Proof.Machine
end

