-- ==== Sys2Proof/Machine/Operands.lean ====
section
/-! DEFINITION. The operand forms: what an instruction's fields and implicit registers denote (spec 30_encoding.md
R71-R73). Every immediate is zero-extended; the one address sum on an immediate is Bnnn's. -/

namespace Sys2Proof.Machine

/-- `trunc_8` (00_scope.md R10). -/
def trunc8 (n : Nat) : Byte := BitVec.ofNat 8 n

/-- `trunc_16` (00_scope.md R10). -/
def trunc16 (n : Nat) : Word := BitVec.ofNat 16 n

/-- `zext_16` of a 12-bit address, the target of 1nnn and 2nnn and the value of Annn (R73). -/
def zextAddr (nnn : BitVec 12) : Word := trunc16 nnn.toNat

/-- The target of Bnnn: `zext_16(V[0]) + zext_16(nnn)`, not masked to 12 bits (40_control.md R111). -/
def v0Target (s : State) (nnn : BitVec 12) : Word := trunc16 ((s.reg 0).toNat + nnn.toNat)

/-- The opcode of a legacy system call, which its warning carries (R103, R75). -/
def sysOpcode (nnn : BitVec 12) : Word := zextAddr nnn

/-- The address of the glyph that the low nibble of a value selects, in a font that stands at `base` (R173). -/
def glyphAddr (base : Nat) (v : Byte) : Word := trunc16 (base + 5 * (v &&& 0x0F).toNat)

/-- The three decimal digits of a value, hundreds first (R174). -/
def bcdDigits (v : Byte) : List Byte :=
  [trunc8 (v.toNat / 100), trunc8 (v.toNat / 10 % 10), trunc8 (v.toNat % 10)]

/-- The values of V0 to Vx, in register order (R175). -/
def regsUpTo (s : State) (x : Reg) : List Byte := s.V.toList.take (x.val + 1)

end Sys2Proof.Machine
end

