-- ==== Sys2Proof/Machine/Flags.lean ====
section
/-! DEFINITION. The values VF takes as a flag (spec 41_alu.md R130-R134, 42_display.md R153), each from the exact
values of the operands at the start of the cycle, and the results they go with. -/

namespace Sys2Proof.Machine

/-- A condition as a register value: 1 or 0. -/
def flagByte (c : Bool) : Byte := if c then 1 else 0

/-- 8xy4: the carry out of bit 7, "1 if sum > 255 else 0" (R130). -/
def addCarry (a b : Byte) : Byte := flagByte (decide (a.toNat + b.toNat > 255))

/-- 8xy4, 7xkk: the sum modulo 256 (R130, R121). -/
def addResult (a b : Byte) : Byte := trunc8 (a.toNat + b.toNat)

/-- 8xy5, 8xy7: 1 if and only if `a - b` borrows, that is `a < b` (R131, R133). This is not the published "NOT
borrow" flag; the spec requires it (00_scope.md R3). -/
def subBorrow (a b : Byte) : Byte := flagByte (decide (a.toNat < b.toNat))

/-- 8xy5, 8xy7: `(a - b + 256) mod 256` (R131, R133). -/
def subResult (a b : Byte) : Byte := trunc8 (a.toNat + 256 - b.toNat)

/-- 8xy6: the bit shifted out, bit 0 before the shift (R132). -/
def shrOut (a : Byte) : Byte := a &&& 0x01

/-- 8xy6: the logical right shift by one (R132). -/
def shrResult (a : Byte) : Byte := trunc8 (a.toNat / 2)

/-- 8xyE: the bit shifted out, bit 7 before the shift (R134). -/
def shlOut (a : Byte) : Byte := trunc8 (a.toNat / 128)

/-- 8xyE: the left shift by one, truncated to 8 bits (R134). -/
def shlResult (a : Byte) : Byte := trunc8 (a.toNat * 2)

end Sys2Proof.Machine
end

