-- ==== Sys2Proof/Machine/Alu.lean ====
section
/-! DEFINITION. Register loads, arithmetic, logic, index load and random byte (spec 41_alu.md R120-R146). Operands are
the values at the start of the cycle; VF is written first and the destination last, so a destination VF holds the
result (00_scope.md R15; UNVERIFIED, log entry 9). -/

namespace Sys2Proof.Machine

/-- 6xkk (R120). -/
def execLdImm (x : Reg) (kk : Byte) (s : State) : Outcome := .next (s.setReg x kk).advance

/-- 7xkk: no flag (R121). -/
def execAddImm (x : Reg) (kk : Byte) (s : State) : Outcome :=
  .next (s.setReg x (addResult (s.reg x) kk)).advance

/-- 8xy0 (R122). -/
def execLdReg (x y : Reg) (s : State) : Outcome := .next (s.setReg x (s.reg y)).advance

/-- 8xy1 (R123). -/
def execOrReg (x y : Reg) (s : State) : Outcome := .next (s.setReg x (s.reg x ||| s.reg y)).advance

/-- 8xy2 (R124). -/
def execAndReg (x y : Reg) (s : State) : Outcome := .next (s.setReg x (s.reg x &&& s.reg y)).advance

/-- 8xy3 (R125). -/
def execXorReg (x y : Reg) (s : State) : Outcome := .next (s.setReg x (s.reg x ^^^ s.reg y)).advance

/-- 8xy4 (R130). -/
def execAddReg (x y : Reg) (s : State) : Outcome :=
  .next ((s.setFlag (addCarry (s.reg x) (s.reg y))).setReg x (addResult (s.reg x) (s.reg y))).advance

/-- 8xy5 (R131). -/
def execSub (x y : Reg) (s : State) : Outcome :=
  .next ((s.setFlag (subBorrow (s.reg x) (s.reg y))).setReg x (subResult (s.reg x) (s.reg y))).advance

/-- 8xy6: Vy is not read (R132). -/
def execShr (x _y : Reg) (s : State) : Outcome :=
  .next ((s.setFlag (shrOut (s.reg x))).setReg x (shrResult (s.reg x))).advance

/-- 8xy7: the result goes to Vy, "not Vx" (R133). -/
def execSubn (x y : Reg) (s : State) : Outcome :=
  .next ((s.setFlag (subBorrow (s.reg y) (s.reg x))).setReg y (subResult (s.reg y) (s.reg x))).advance

/-- 8xyE: Vy is not read (R134). -/
def execShl (x _y : Reg) (s : State) : Outcome :=
  .next ((s.setFlag (shlOut (s.reg x))).setReg x (shlResult (s.reg x))).advance

/-- Annn (R140). -/
def execLdI (nnn : BitVec 12) (s : State) : Outcome := .next (s.setI (zextAddr nnn)).advance

/-- Cxkk: one draw from the random-byte port (R141). -/
def execRnd (x : Reg) (kk : Byte) (s : State) : Outcome :=
  .next ((s.setReg x (s.rndDraw kk)).countDraw).advance

end Sys2Proof.Machine
end

