-- ==== Sys2Proof/Machine/Control.lean ====
section
/-! DEFINITION. Control transfer and skips (spec 40_control.md R103-R113). -/

namespace Sys2Proof.Machine

/-- 0nnn, the legacy system call: one warning and nothing else (R103). -/
def execSys (nnn : BitVec 12) (s : State) : Outcome := .next (s.warn (sysOpcode nnn)).advance

/-- 00EE (R104). -/
def execRet (s : State) : Outcome := s.commit s.popPc

/-- 1nnn (R105). -/
def execJp (nnn : BitVec 12) (s : State) : Outcome := .next (s.setPc (zextAddr nnn))

/-- 2nnn: push npc, then jump (R106). -/
def execCall (nnn : BitVec 12) (s : State) : Outcome :=
  s.commit ((s.push s.npc).map fun t => t.setPc (zextAddr nnn))

/-- 3xkk (R107). -/
def execSeImm (x : Reg) (kk : Byte) (s : State) : Outcome := .next (s.skipIf (s.reg x == kk))

/-- 4xkk (R108). -/
def execSneImm (x : Reg) (kk : Byte) (s : State) : Outcome := .next (s.skipIf (s.reg x != kk))

/-- 5xy0 (R109). -/
def execSeReg (x y : Reg) (s : State) : Outcome := .next (s.skipIf (s.reg x == s.reg y))

/-- 9xy0 (R110). -/
def execSneReg (x y : Reg) (s : State) : Outcome := .next (s.skipIf (s.reg x != s.reg y))

/-- Bnnn (R111). -/
def execJpV0 (nnn : BitVec 12) (s : State) : Outcome := .next (s.setPc (v0Target s nnn))

end Sys2Proof.Machine
end

