-- ==== Sys2Proof/Machine/Display.lean ====
section
/-! DEFINITION. The display primitives and 00E0, Dxyn (spec 42_display.md R150-R154). -/

namespace Sys2Proof.Machine

/-- A column coordinate of any sign and magnitude, modulo 64 (R150). -/
def wrapX (x : Int) : Fin 64 := ⟨(x % 64).toNat, by omega⟩

/-- A row coordinate of any sign and magnitude, modulo 32 (R150). -/
def wrapY (y : Int) : Fin 32 := ⟨(y % 32).toNat, by omega⟩

/-- `pix[x mod 64][y mod 32]` (R150). -/
def Display.cell (d : Display) (x y : Int) : Bool := (d[wrapX x])[wrapY y]

/-- The display with cell `pix[x mod 64][y mod 32]` at `on` (R150, 60_exceptions.md R227). -/
def Display.put (d : Display) (x y : Int) (on : Bool) : Display :=
  d.set (wrapX x) ((d[wrapX x]).set (wrapY y) on)

/-- `Clear()`: every cell at 0 (R151). -/
def Display.blank : Display := Vector.replicate 64 (Vector.replicate 32 false)

/-- The loop body of R152 for one bit: a set bit reports a lit cell and toggles it, a zero bit does nothing. -/
def compositeBit (x0 y0 : Int) (r : Nat) (row : Byte) (acc : Display × Bool) (c : Nat) : Display × Bool :=
  if row.getLsbD (7 - c) then
    (acc.1.put (x0 + c) (y0 + r) (!acc.1.cell (x0 + c) (y0 + r)), acc.2 || acc.1.cell (x0 + c) (y0 + r))
  else acc

/-- The inner loop of R152: the 8 columns of a row, most significant bit first. -/
def compositeRow (x0 y0 : Int) (r : Nat) (row : Byte) (acc : Display × Bool) : Display × Bool :=
  (List.range 8).foldl (compositeBit x0 y0 r row) acc

/-- The outer loop of R152: the rows from number `r` on, top to bottom. -/
def compositeRows (x0 y0 : Int) : Nat → List Byte → Display × Bool → Display × Bool
  | _, [], acc => acc
  | r, row :: rows, acc => compositeRows x0 y0 (r + 1) rows (compositeRow x0 y0 r row acc)

/-- `Composite(x0, y0, rows)`: the display after the sprite, and whether any set bit hit a lit cell (R152). -/
def Display.composite (d : Display) (x0 y0 : Int) (rows : List Byte) : Display × Bool :=
  compositeRows x0 y0 0 rows (d, false)

/-- 00E0: VF is not written (R154). -/
def execCls (s : State) : Outcome := .next (s.setPix Display.blank).advance

/-- The effect of a draw whose rows have been read: the composited display, and the collision in VF (R153). -/
def State.drawSprite (s : State) (vx vy : Byte) (rows : List Byte) : State :=
  let r := s.pix.composite vx.toNat vy.toNat rows
  (s.setPix r.1).setFlag (flagByte r.2)

/-- Dxyn: the rows are read, and checked, before any cell changes (R153). -/
def execDrw (x y : Reg) (n : Fin 16) (s : State) : Outcome :=
  s.commit ((memReadBytes s.mem s.I.toNat n.val).map fun rows =>
    (s.drawSprite (s.reg x) (s.reg y) rows).advance)

end Sys2Proof.Machine
end

