-- ==== Sys2Proof/Machine/FxExt.lean ====
section
/-! DEFINITION. FX-EXT, the decided Fx opcodes (spec 44_fx_extension.md R170-R177; UNVERIFIED, log entry 5). -/

namespace Sys2Proof.Machine

/-- Fx15 (R170). -/
def execLdDTVx (x : Reg) (s : State) : Outcome := .next (s.setDT (s.reg x)).advance

/-- Fx18 (R171). -/
def execLdSTVx (x : Reg) (s : State) : Outcome := .next (s.setST (s.reg x)).advance

/-- Fx1E: modulo 2^16, VF not written (R172). -/
def execAddIVx (x : Reg) (s : State) : Outcome :=
  .next (s.setI (trunc16 (s.I.toNat + (s.reg x).toNat))).advance

/-- Fx29 in a block whose FONT_BASE is `base` (R173). -/
def execLdFVxAt (base : Nat) (x : Reg) (s : State) : Outcome := .next (s.setI (glyphAddr base (s.reg x))).advance

/-- Fx29 (R173). -/
def execLdFVx (x : Reg) (s : State) : Outcome := execLdFVxAt fontBase x s

/-- Store bytes at I; I is not changed (R174, R175). -/
def storeAtI (s : State) (vs : List Byte) : Outcome :=
  s.commit ((memWriteBytes s.mem s.I.toNat vs).map fun m => (s.setMem m).advance)

/-- Fx33 (R174). -/
def execLdBVx (x : Reg) (s : State) : Outcome := storeAtI s (bcdDigits (s.reg x))

/-- Fx55 (R175). -/
def execStoreRegs (x : Reg) (s : State) : Outcome := storeAtI s (regsUpTo s x)

/-- Fx65: I is not changed (R176). -/
def execLoadRegs (x : Reg) (s : State) : Outcome :=
  s.commit ((memReadBytes s.mem s.I.toNat (x.val + 1)).map fun vs =>
    { s with V := setRegs s.V 0 vs }.advance)

end Sys2Proof.Machine
end

