-- ==== Sys2Proof/Machine/Input.lean ====
section
/-! DEFINITION. Key and timer instructions (spec 43_input_timer.md R160-R163). -/

namespace Sys2Proof.Machine

/-- Ex9E: the key number is the value of Vx (R160). That it writes pc is R160's, where the list of R113 omits it
(DEDUCED, log entry 21). -/
def execSkp (x : Reg) (s : State) : Outcome := s.commit ((s.keyAt (s.reg x)).map fun p => s.skipIf p)

/-- ExA1 (R161). That it writes pc is R161's, where the list of R113 omits it (DEDUCED, log entry 21). -/
def execSknp (x : Reg) (s : State) : Outcome := s.commit ((s.keyAt (s.reg x)).map fun p => s.skipIf (!p))

/-- Fx07 (R162). -/
def execLdVxDT (x : Reg) (s : State) : Outcome := .next (s.setReg x s.DT).advance

/-- Fx0A: consume the latched key, or go back to this instruction's own address (R163). -/
def execLdVxK (x : Reg) (s : State) : Outcome :=
  match s.latch with
  | some k => .next ((s.setReg x (trunc8 k.val)).setLatch none).advance
  | none => .next (s.setPc (s.npc - 2))

end Sys2Proof.Machine
end

