-- ==== Sys2Proof/Machine/Fetch.lean ====
section
/-! DEFINITION. The fetch and decode of a cycle (spec 40_control.md R100-R102), the cycle around a meaning, and the placing of one opcode where
the next fetch reads it. -/

namespace Sys2Proof.Machine

/-- The instruction at pc, or the fault the cycle raises before it performs one: the fetch's bounds check comes
first, then the decode (60_exceptions.md R207). `fxExt` is the parameter FX_EXT. -/
def fetchDecodeWith (fxExt : Bool) (s : State) : Except FaultCause Instr :=
  match memReadPair s.mem s.pc.toNat with
  | .error c => .error c
  | .ok op =>
    match decodeOp fxExt op with
    | .ok i => .ok i
    | .error _ => .error (.illegalInstruction op)

/-- Fetch and decode in the block as the spec builds it. -/
def fetchDecode (s : State) : Except FaultCause Instr := fetchDecodeWith Config.fxExt s

/-- One `execute` call, with FX_EXT and the meaning of instructions given: refused while a fault is recorded
(60_exceptions.md R211), else fetch, decode and perform (R100). -/
def cycle (fxExt : Bool) (perform : Instr → State → Outcome) (s : State) : Outcome :=
  match s.fault with
  | some r => .fault (.faulted r)
  | none =>
    match fetchDecodeWith fxExt s with
    | .error c => s.raise c
    | .ok i => perform i s

/-- The state with opcode `op` at pc and no fault recorded, so that the next cycle fetches and performs it. Where pc
is no address an opcode can be fetched from, it is set to START_ADDR first (log entry 14). -/
def placeOpcode (s : State) (op : Word) : State :=
  let a : Word := if s.pc.toNat + 2 ≤ Config.memSize then s.pc else Config.startAddr
  { s with pc := a, mem := s.mem.writeList a.toNat (opBytes op), fault := none }

end Sys2Proof.Machine
end

