-- ==== Sys2Proof/Machine/Step.lean ====
section
/-! DEFINITION. One step: one `execute` call, one cycle of the CPU (spec 40_control.md R100). -/

namespace Sys2Proof.Machine

/-- `execute()`: refused while a fault is recorded (60_exceptions.md R211), else fetch, decode and perform. It does
not look at `run` (R235). -/
def step (s : State) : Host.Outcome State Fault Refusal := cycle Config.fxExt exec s

/-- `s` with an opcode-table word stored where `step` fetches its next instruction (log entry 14). -/
def State.withFetchWord (s : State) (nbits w : Nat) : State := placeOpcode s (tableOpcode nbits w)

end Sys2Proof.Machine
end

