-- ==== Sys2Proof/Machine/Block.lean ====
section
/-! DEFINITION. The cycle of a block built with any parameters (spec 00_scope.md R7, 44_fx_extension.md R177). FX_EXT
acts in the decoder, FONT_BASE in Fx29, and no other instruction reads a parameter. -/

namespace Sys2Proof.Machine

/-- An instruction in a block whose FONT_BASE is `base`: Fx29 looks there for the font (R173). -/
def execIn (base : Nat) (i : Instr) (s : State) : Outcome :=
  match i with
  | .ldFVx x => execLdFVxAt base x s
  | .cls | .ret | .sys _ | .jp _ | .call _ | .seImm _ _ | .sneImm _ _ | .seReg _ _ | .sneReg _ _ => exec i s
  | .ldImm _ _ | .addImm _ _ | .ldReg _ _ | .orReg _ _ | .andReg _ _ | .xorReg _ _ => exec i s
  | .addReg _ _ | .sub _ _ | .shr _ _ | .subn _ _ | .shl _ _ | .ldI _ | .jpV0 _ | .rnd _ _ => exec i s
  | .drw _ _ _ | .skp _ | .sknp _ | .ldVxDT _ | .ldVxK _ | .ldDTVx _ | .ldSTVx _ | .addIVx _ => exec i s
  | .ldBVx _ | .storeRegs _ | .loadRegs _ => exec i s

/-- One cycle of a block with parameters `p` (R100). -/
def stepIn (p : Config.Params) (s : State) : Outcome := cycle p.fxExt (execIn p.fontBase) s

end Sys2Proof.Machine
end

