-- ==== Sys2Proof/Machine/HostOps.lean ====
section
/-! DEFINITION. The operations the block offers its host (spec 60_exceptions.md R220-R236, 70_reset_and_hazards.md
R250-R253, 20_memory.md R63), each one atomic transition (R230), and the frame sequencer. -/

namespace Sys2Proof.Machine

/-- The errors an operation returns to the host; none of them is a fault of the block. -/
inductive HostError
  /-- A memory access at or above MEM_SIZE: `addr` is its lowest such address (20_memory.md R52, R63). -/
  | memoryOutOfRange (addr : Nat)
  /-- A key number of 16 or more (R224, R225, R229). The error carries nothing (DESIGN CHOICE, log entry 20). -/
  | outOfRange
  /-- `load_rom` of no bytes (R252). -/
  | romEmpty
  /-- `load_rom` of more than MEM_SIZE - START_ADDR bytes (R252). -/
  | romTooLarge
  deriving DecidableEq, Repr

/-- What an operation returns to the host. -/
inductive HostReply
  /-- Done, with nothing to report: `Ok`. -/
  | ok
  /-- An error to the host. -/
  | error (e : HostError)
  /-- `Faulted(record)` (R209, R211). -/
  | faulted (record : FaultRecord)
  /-- The model has no meaning for the instruction; no instruction of this model answers so. -/
  | unmodelled (r : Refusal)
  /-- The answer of `run_frame`: whether a frame ran, and whether sound is audible (R231). -/
  | frame (completed sound : Bool)
  /-- A Boolean answer. -/
  | bool (b : Bool)
  /-- A byte. -/
  | byte (v : Byte)
  /-- A big-endian pair. -/
  | word (v : Word)
  deriving DecidableEq, Repr

/-- The host operations of R230. -/
inductive HostOp
  /-- `reset()`. -/
  | reset
  /-- `load_rom(bytes)`. -/
  | loadRom (bytes : List Byte)
  /-- `execute()`. -/
  | execute
  /-- `run_frame(override)`. -/
  | runFrame (override : Nat)
  /-- `tick()`. -/
  | tick
  /-- `set_key_state(k, pressed)`. -/
  | setKeyState (k : Nat) (pressed : Bool)
  /-- `is_pressed(k)`. -/
  | isPressed (k : Nat)
  /-- `is_pixel_set(x, y)`. -/
  | isPixelSet (x y : Int)
  /-- `set_pixel(x, y, on)`. -/
  | setPixel (x y : Int) (on : Bool)
  /-- `set_delay(v)`. -/
  | setDelay (v : Byte)
  /-- `set_sound(v)`. -/
  | setSound (v : Byte)
  /-- `delay()`. -/
  | delay
  /-- `sound()`. -/
  | sound
  /-- `beep()`. -/
  | beep
  /-- `read_byte(a)`. -/
  | readByte (a : Nat)
  /-- `write_byte(a, v)`. -/
  | writeByte (a : Nat) (v : Byte)
  /-- `read_two_bytes(a)`. -/
  | readTwoBytes (a : Nat)
  /-- `set_running(b)`. -/
  | setRunning (b : Bool)
  deriving DecidableEq, Repr

/-- The machine right after reset in a block with parameters `p` (R56, R250). -/
def State.resetIn (p : Config.Params) : State := { State.reset with mem := resetMemory p.fontBase p.fontTable }

/-- `reset()`: every item of the block's state to its reset value (R250). The random-byte source and the warning
output are outside the block and go on (R250, R228; log entries 2 and 3). -/
def hostResetIn (p : Config.Params) (s : State) : State :=
  { State.resetIn p with draws := s.draws, warnings := s.warnings }

/-- `load_rom(bytes)`: reset, size checks, copy from START_ADDR, Running (R252, R253). -/
def loadRomIn (p : Config.Params) (bytes : List Byte) (s : State) : State × HostReply :=
  let r := hostResetIn p s
  if bytes.length = 0 then (r, .error .romEmpty)
  else if bytes.length > Config.memSize - Config.startAddr.toNat then (r, .error .romTooLarge)
  else ({ r with mem := r.mem.writeList Config.startAddr.toNat bytes, run := .running }, .ok)

/-- `execute()` as the host sees it: the state after, and `Ok` or `Faulted(record)` (R209, R211). -/
def executeIn (p : Config.Params) (s : State) : State × HostReply :=
  match stepIn p s with
  | .next t =>
    match t.fault with
    | none => (t, .ok)
    | some r => (t, .faulted r)
  | .fault (.faulted r) => (s, .faulted r)
  | .refused r => (s, .unmodelled r)

/-- One timer: down by one, and never below zero (R220). -/
def countDown (v : Byte) : Byte := if v = 0 then 0 else v - 1

/-- `tick()`: each counter on its own (R220). -/
def tick (s : State) : State := { s with DT := countDown s.DT, ST := countDown s.ST }

/-- `beep()`, the sound-active output: `ST > 0` (R221). -/
def beep (s : State) : Bool := decide (s.ST.toNat > 0)

/-- `n` cycles back to back, ending at the first that does not answer `Ok` (R231, R232, R233). -/
def runCyclesIn (p : Config.Params) : Nat → State → State × HostReply
  | 0, s => (s, .ok)
  | n + 1, s =>
    match executeIn p s with
    | (t, .ok) => runCyclesIn p n t
    | (t, r) => (t, r)

/-- `run_frame(override)` (R231-R234): nothing when faulted or not running, else the cycles, and one tick after them if
none faulted; sound is read after the tick. Override 0 means CYCLES_PER_FRAME. -/
def runFrameIn (p : Config.Params) (override : Nat) (s : State) : State × HostReply :=
  match s.fault with
  | some r => (s, .faulted r)
  | none =>
    if s.run = .stopped then (s, .frame false false)
    else
      match runCyclesIn p (if override = 0 then p.cyclesPerFrame else override) s with
      | (t, .ok) => (tick t, .frame true (beep (tick t)))
      | (t, r) => (t, r)

/-- What the release of key `k` does to the latch, by LATCH_RELEASE_POLICY (R225). -/
def releaseLatch (policy : Config.LatchPolicy) (k : Fin 16) (l : Option (Fin 16)) : Option (Fin 16) :=
  match policy with
  | .clearIfSame => if l = some k then none else l
  | .keep => l

/-- `set_key_state(k, pressed)`: a press sets the key and the latch, a release clears the key and acts on the latch by
the policy, a number out of range changes nothing (R224, R225). -/
def setKeyStateWith (policy : Config.LatchPolicy) (k : Nat) (pressed : Bool) (s : State) : State × HostReply :=
  if h : k < 16 then
    ({ s with
        key := s.key.set k pressed
        latch := if pressed then some ⟨k, h⟩ else releaseLatch policy ⟨k, h⟩ s.latch }, .ok)
  else (s, .error .outOfRange)

/-- `is_pressed(k)` (R229). -/
def isPressed (k : Nat) (s : State) : HostReply :=
  if h : k < 16 then .bool s.key[k] else .error .outOfRange

/-- `read_byte(a)`; out of range, the error names the lowest address that is (20_memory.md R63, R52). -/
def readByte (a : Nat) (s : State) : HostReply :=
  match firstOut a 1 with
  | none => .byte (s.mem.read a)
  | some b => .error (.memoryOutOfRange b)

/-- `write_byte(a, v)`: out of range it changes nothing and sets no fault (20_memory.md R63). -/
def writeByte (a : Nat) (v : Byte) (s : State) : State × HostReply :=
  match firstOut a 1 with
  | none => (s.setMem (s.mem.write a v), .ok)
  | some b => (s, .error (.memoryOutOfRange b))

/-- `read_two_bytes(a)`, big-endian (20_memory.md R63, R53). -/
def readTwoBytes (a : Nat) (s : State) : HostReply :=
  match firstOut a 2 with
  | none => .word (bigEndian (s.mem.read a) (s.mem.read (a + 1)))
  | some b => .error (.memoryOutOfRange b)

/-- One operation of the host in a block with parameters `p`: the block's state after it, and what it returns (R230). -/
def performIn (p : Config.Params) (op : HostOp) (s : State) : State × HostReply :=
  match op with
  | .reset => (hostResetIn p s, .ok)
  | .loadRom bytes => loadRomIn p bytes s
  | .execute => executeIn p s
  | .runFrame override => runFrameIn p override s
  | .tick => (tick s, .ok)
  | .setKeyState k pressed => setKeyStateWith p.latchPolicy k pressed s
  | .isPressed k => (s, isPressed k s)
  | .isPixelSet x y => (s, .bool (s.pix.cell x y))
  | .setPixel x y on => (s.setPix (s.pix.put x y on), .ok)
  | .setDelay v => (s.setDT v, .ok)
  | .setSound v => (s.setST v, .ok)
  | .delay => (s, .byte s.DT)
  | .sound => (s, .byte s.ST)
  | .beep => (s, .bool (beep s))
  | .readByte a => (s, readByte a s)
  | .writeByte a v => writeByte a v s
  | .readTwoBytes a => (s, readTwoBytes a s)
  | .setRunning b => ({ s with run := if b then .running else .stopped }, .ok)

/-- One operation of the host in the block as the spec builds it, but with FONT_TABLE at `font`. -/
def performWith (font : Config.FontTable) (op : HostOp) (s : State) : State × HostReply :=
  performIn { specParams with fontTable := font } op s

/-- One operation of the host in the block as the spec builds it. -/
def perform (op : HostOp) (s : State) : State × HostReply := performIn specParams op s

end Sys2Proof.Machine
end

