-- ==== Sys2Proof/Machine/Print.lean ====
section
/-! DEFINITION. The assembler spelling of an opcode (spec 30_encoding.md R80, R81): mnemonic, one space, operands
separated by a comma and a space. It has no effect on any state. -/

namespace Sys2Proof.Machine

/-- One hexadecimal digit, upper case. -/
def hexDigit (n : Nat) : Char :=
  if n < 10 then Char.ofNat (48 + n) else Char.ofNat (55 + n)

/-- The last `width` hexadecimal digits of a number, most significant first. -/
def hexDigits : Nat → Nat → List Char
  | 0, _ => []
  | width + 1, n => hexDigit (n / 16 ^ width % 16) :: hexDigits width n

/-- A number in hexadecimal with an `0x` prefix, as wide as its field (R80; the width is DEDUCED, log entry 17). -/
def hex (width n : Nat) : String := String.ofList ('0' :: 'x' :: hexDigits width n)

/-- A register, `V0` to `VF` (R80). -/
def regName (x : Reg) : String := String.ofList ['V', hexDigit x.val]

/-- Two operands of one register each. -/
def twoRegs (x y : Reg) : String := regName x ++ ", " ++ regName y

/-- A register and an immediate byte. -/
def regByte (x : Reg) (kk : Byte) : String := regName x ++ ", " ++ hex 2 kk.toNat

/-- The syntax of R80's table. -/
def Instr.print : Instr → String
  | .cls => "CLS"
  | .ret => "RET"
  | .sys nnn => "SYS " ++ hex 3 nnn.toNat
  | .jp nnn => "JP " ++ hex 3 nnn.toNat
  | .call nnn => "CALL " ++ hex 3 nnn.toNat
  | .seImm x kk => "SE " ++ regByte x kk
  | .sneImm x kk => "SNE " ++ regByte x kk
  | .seReg x y => "SE " ++ twoRegs x y
  | .ldImm x kk => "LD " ++ regByte x kk
  | .addImm x kk => "ADD " ++ regByte x kk
  | .ldReg x y => "LD " ++ twoRegs x y
  | .orReg x y => "OR " ++ twoRegs x y
  | .andReg x y => "AND " ++ twoRegs x y
  | .xorReg x y => "XOR " ++ twoRegs x y
  | .addReg x y => "ADD " ++ twoRegs x y
  | .sub x y => "SUB " ++ twoRegs x y
  | .shr x y => "SHR " ++ twoRegs x y
  | .subn x y => "SUBN " ++ twoRegs x y
  | .shl x y => "SHL " ++ twoRegs x y
  | .sneReg x y => "SNE " ++ twoRegs x y
  | .ldI nnn => "LD I, " ++ hex 3 nnn.toNat
  | .jpV0 nnn => "JP V0, " ++ hex 3 nnn.toNat
  | .rnd x kk => "RND " ++ regByte x kk
  | .drw x y n => "DRW " ++ twoRegs x y ++ ", " ++ hex 1 n.val
  | .skp x => "SKP " ++ regName x
  | .sknp x => "SKNP " ++ regName x
  | .ldVxDT x => "LD " ++ regName x ++ ", DT"
  | .ldVxK x => "LD " ++ regName x ++ ", K"
  | .ldDTVx x => "LD DT, " ++ regName x
  | .ldSTVx x => "LD ST, " ++ regName x
  | .addIVx x => "ADD I, " ++ regName x
  | .ldFVx x => "LD F, " ++ regName x
  | .ldBVx x => "LD B, " ++ regName x
  | .storeRegs x => "LD [I], " ++ regName x
  | .loadRegs x => "LD " ++ regName x ++ ", [I]"

/-- What the printer writes for an opcode; an illegal one is `.word` and four digits (R80). -/
def printOp (fxExt : Bool) (op : Word) : String :=
  match decodeOp fxExt op with
  | .ok i => Instr.print i
  | .error _ => ".word " ++ hex 4 op.toNat

end Sys2Proof.Machine
end

