-- ==== Sys2Proof/Safety.lean ====
section
/-! DEFINITION. What claims about the block are stated in terms of: the invariant of every reachable state, what a
legal fault record is, which bits of a display a sprite covers, and the frame predicates. -/

namespace Sys2Proof.Machine

/-- No fault is recorded: the run so far is safe (spec 10_state.md R32). -/
def State.noFault (s : State) : Prop := s.fault = none

/-- What this model counts as the end of a run (R271 asks a model to say): a recorded fault, way (a), and nothing else.
Way (b), the host withholding calls, is no state of a step, and ways (c) and (d) are hangs (DESIGN CHOICE, log entry
22). -/
def State.isFinal (s : State) : Prop := s.fault ≠ none

/-- A hang in one place: a cycle that leaves the whole state as it was. These are the self-jump of way (c) and the key
wait of way (d) of R271, and no end of a run: the host's next key event or tick may still change the state. -/
def State.hung (s : State) : Prop := step s = .next s

/-- The info a fault kind may carry (60_exceptions.md R200). -/
def FaultCause.legal : FaultCause → Prop
  | .memoryOutOfRange addr => Config.memSize ≤ addr
  | .keyOutOfRange key => 16 ≤ key.toNat
  | .stackOverflow sp => sp = 16
  | .stackUnderflow sp => sp = 0
  | .illegalInstruction op => decodeOp Config.fxExt op = .error (.illegal op)

/-- The invariant of the block: memory is in canonical form, pc is a value the rules can produce and the return
addresses are ones a call can push (40_control.md R102), a latched key is held down (92_eei_decisions.md D9), and a
recorded fault is legal and names the pc, which no later cycle moves (60_exceptions.md R208, R210). -/
structure State.Inv (s : State) : Prop where
  memory : s.mem.wf = true
  pcBound : s.pc.toNat ≤ 0x10FE
  stackBound : ∀ j : Fin 16, (s.stack[j]).toNat ≤ 0x1000
  latchHeld : ∀ k, s.latch = some k → s.key[k] = true
  faultLegal : ∀ r, s.fault = some r → r.cause.legal ∧ r.fpc = s.pc

/-- Every byte of memory reads as before. -/
def State.sameBytes (s t : State) : Prop := ∀ a, t.mem.read a = s.mem.read a

/-- Every general register reads as before, except those listed. -/
def State.sameRegsBut (s t : State) (ds : List Reg) : Prop := ∀ r, r ∉ ds → t.reg r = s.reg r

/-- Whether a sprite of at most 32 rows drawn at `(x0, y0)` has a set bit on cell `(x, y)`: columns run right and rows
down from the origin, most significant bit first, both wrapping (42_display.md R152, R150). -/
def spriteBit (x0 y0 : Int) (rows : List Byte) (x y : Int) : Bool :=
  decide (((x - x0) % 64).toNat < 8) &&
    (rows.getD ((y - y0) % 32).toNat 0).getLsbD (7 - ((x - x0) % 64).toNat)

/-- The `n` bytes at I, as reading them one by one gives them. -/
def State.bytesAtI (s : State) (n : Nat) : List Byte :=
  (List.range n).map fun i => s.mem.read (s.I.toNat + i)

/-- The fault an instruction's own check finds in the state at the start of its cycle, as the table of
60_exceptions.md R200 and the conditions of R201 to R204 list them; every other instruction has none (R206, R207). -/
def instrFault (i : Instr) (s : State) : Option FaultCause :=
  match i with
  | .ret => if s.sp = 0 then some (.stackUnderflow 0) else none
  | .call _ => if s.sp = 16 then some (.stackOverflow 16) else none
  | .skp x | .sknp x => if 16 ≤ (s.reg x).toNat then some (.keyOutOfRange (s.reg x)) else none
  | .drw _ _ n =>
    if 1 ≤ n.val ∧ 4096 ≤ s.I.toNat + n.val - 1 then some (.memoryOutOfRange (max s.I.toNat 4096)) else none
  | .ldBVx _ => if 4096 ≤ s.I.toNat + 2 then some (.memoryOutOfRange (max s.I.toNat 4096)) else none
  | .storeRegs x | .loadRegs x =>
    if 4096 ≤ s.I.toNat + x.val then some (.memoryOutOfRange (max s.I.toNat 4096)) else none
  | .cls | .sys _ | .jp _ | .seImm _ _ | .sneImm _ _ | .seReg _ _ | .ldImm _ _ | .addImm _ _ | .ldReg _ _ => none
  | .orReg _ _ | .andReg _ _ | .xorReg _ _ | .addReg _ _ | .sub _ _ | .shr _ _ | .subn _ _ | .shl _ _ => none
  | .sneReg _ _ | .ldI _ | .jpV0 _ | .rnd _ _ | .ldVxDT _ | .ldVxK _ | .ldDTVx _ | .ldSTVx _ => none
  | .addIVx _ | .ldFVx _ => none

/-- The fault of a whole cycle, in the order of R207: the fetch's bounds check, then the decode, then the
instruction's own check. -/
def cycleFault (s : State) : Option FaultCause :=
  if 0xFFF ≤ s.pc.toNat then some (.memoryOutOfRange (max s.pc.toNat 4096))
  else
    match decodeOp Config.fxExt (bigEndian (s.mem.read s.pc.toNat) (s.mem.read (s.pc.toNat + 1))) with
    | .error (.illegal op) => some (.illegalInstruction op)
    | .error .truncated => none
    | .ok i => instrFault i s

end Sys2Proof.Machine
end

