-- ==== Sys2Proof/Certificates/Slice0/Obligations.lean ====
section
/-! DEFINITION. The statements for the provers, from the numbered rules of spec/. Two forms recur. `t = { s with pc := t.pc }`
is a frame: every field of `t` but those named is the field of `s`. `∀ a, t.mem.read a = s.mem.read a` says the same of
memory byte by byte. The opcode of an instruction is stated beside its effect, as its rule's Encoding line writes it. -/

open Sys2Proof Sys2Proof.Machine

/-! Encoding. -/

/-- 30_encoding.md R74 and the Encoding lines: the decoder reads back every well-formed instruction, with every operand at
every value, in a block with FX_EXT enabled or disabled. -/
def Obligations.DecodeEncodeRoundTrip : Prop :=
  ∀ (fx : Bool) (i : Instr), i.wf fx = true → decodeOp fx (encode i) = .ok i

/-- The other direction: whatever opcode decodes is the opcode of the well-formed instruction it decodes to. -/
def Obligations.EncodeDecodeRoundTrip : Prop :=
  ∀ (fx : Bool) (op : Word) (i : Instr), decodeOp fx op = .ok i → i.wf fx = true ∧ encode i = op

/-- R74, R76, R77, R78: exactly these opcodes are illegal, and each is rejected under its own name. -/
def Obligations.IllegalOpcodesAreExactlyThese : Prop :=
  ∀ (fx : Bool) (op : Word),
    (decodeOp fx op = .error (.illegal op) ↔
      ((op.toNat / 4096 = 0x5 ∨ op.toNat / 4096 = 0x9) ∧ op.toNat % 16 ≠ 0) ∨
      (op.toNat / 4096 = 0x8 ∧ op.toNat % 16 ∈ [0x8, 0x9, 0xA, 0xB, 0xC, 0xD, 0xF]) ∨
      (op.toNat / 4096 = 0xE ∧ op.toNat % 256 ∉ [0x9E, 0xA1]) ∨
      (op.toNat / 4096 = 0xF ∧ op.toNat % 256 ∉ [0x07, 0x0A] ∧
        (fx = true → op.toNat % 256 ∉ [0x15, 0x18, 0x1E, 0x29, 0x33, 0x55, 0x65]))) ∧
    ∀ e, decodeOp fx op = .error e → e = .illegal op

/-- Words written out from the Encoding lines of at least one instruction for each of the sixteen families (R71, R74),
over the bytes as memory stores them. -/
def Obligations.KnownWordsDecode : Prop :=
  decode true [0x00, 0xE0] = .ok (.cls, []) ∧ decode true [0x00, 0xEE] = .ok (.ret, []) ∧
  decode true [0x00, 0x00] = .ok (.sys 0, []) ∧ decode true [0x12, 0x34] = .ok (.jp 0x234, []) ∧
  decode true [0x23, 0x00] = .ok (.call 0x300, []) ∧ decode true [0x33, 0x10] = .ok (.seImm 3 0x10, []) ∧
  decode true [0x43, 0x10] = .ok (.sneImm 3 0x10, []) ∧ decode true [0x51, 0x20] = .ok (.seReg 1 2, []) ∧
  decode true [0x6A, 0x42] = .ok (.ldImm 10 0x42, []) ∧ decode true [0x70, 0x20] = .ok (.addImm 0 0x20, []) ∧
  decode true [0x91, 0x20] = .ok (.sneReg 1 2, []) ∧ decode true [0xA1, 0x23] = .ok (.ldI 0x123, []) ∧
  decode true [0x81, 0x24] = .ok (.addReg 1 2, []) ∧ decode true [0x84, 0x7E] = .ok (.shl 4 7, []) ∧
  decode true [0xB5, 0xFF] = .ok (.jpV0 0x5FF, []) ∧ decode true [0xC5, 0xFF] = .ok (.rnd 5 0xFF, []) ∧
  decode true [0xD0, 0x15] = .ok (.drw 0 1 5, []) ∧ decode true [0xE2, 0xA1] = .ok (.sknp 2, []) ∧
  decode true [0xF5, 0x0A] = .ok (.ldVxK 5, []) ∧ decode true [0xF2, 0x65] = .ok (.loadRegs 2, [])

/-! The cycle and its faults. -/

/-- 40_control.md R100, R101, 20_memory.md R53: when the two bytes at pc, most significant first, are the opcode of a
well-formed instruction and no fault is recorded, the step is that instruction, on the state at the start of the cycle.
The same in a block built with any parameters (00_scope.md R7), where only Fx29 depends on FONT_BASE. -/
def Obligations.StepRunsTheInstructionAtPc : Prop :=
  ∀ (s : State) (i : Instr), s.fault = none → s.pc.toNat + 2 ≤ 4096 →
    s.mem.read s.pc.toNat = hiByte (encode i) → s.mem.read (s.pc.toNat + 1) = loByte (encode i) →
    (i.WellFormed → step s = exec i s) ∧
    ∀ p : Config.Params, i.wf p.fxExt = true →
      stepIn p s = execIn p.fontBase i s ∧
      (p.fontBase = fontBase ∨ (∀ x, i ≠ .ldFVx x) → execIn p.fontBase i s = exec i s)

/-- R102: a fetch at 0x0FFF faults at address 0x1000, a fetch at or above 0x1000 at its own address; nothing else
changes, pc included. -/
def Obligations.FetchPastTheEndFaults : Prop :=
  ∀ s : State, s.fault = none → 0xFFF ≤ s.pc.toNat →
    step s = .next { s with
      fault := some ⟨.memoryOutOfRange (if s.pc.toNat = 0xFFF then 0x1000 else s.pc.toNat), s.pc⟩ }

/-- 60_exceptions.md R205: the decode of an illegal opcode raises IllegalInstruction with the opcode as its info, in a
block built with any parameters; in one with FX_EXT disabled the seven FX-EXT opcodes are among them (30_encoding.md
R78, 44_fx_extension.md R177). -/
def Obligations.IllegalOpcodeFaults : Prop :=
  ∀ (s : State) (op : Word), s.fault = none → s.pc.toNat + 2 ≤ 4096 →
    op = bigEndian (s.mem.read s.pc.toNat) (s.mem.read (s.pc.toNat + 1)) →
    (decodeOp Config.fxExt op = .error (.illegal op) →
      step s = .next { s with fault := some ⟨.illegalInstruction op, s.pc⟩ }) ∧
    ∀ p : Config.Params,
      (decodeOp p.fxExt op = .error (.illegal op) →
        stepIn p s = .next { s with fault := some ⟨.illegalInstruction op, s.pc⟩ }) ∧
      (p.fxExt = false → op.toNat / 4096 = 0xF →
        op.toNat % 256 ∈ [0x15, 0x18, 0x1E, 0x29, 0x33, 0x55, 0x65] →
        stepIn p s = .next { s with fault := some ⟨.illegalInstruction op, s.pc⟩ })

/-- R207, with R200 to R206: one cycle faults exactly when one of the listed checks fails, and the first of them in
R207's order decides the fault. -/
def Obligations.CycleFaultsExactlyByPriority : Prop :=
  ∀ s : State, s.fault = none → ∃ t, step s = .next t ∧ t.fault = (cycleFault s).map fun c => ⟨c, s.pc⟩

/-- R208: "A faulting cycle commits no write: pc keeps the faulting opcode's address". -/
def Obligations.FaultsArePrecise : Prop :=
  ∀ (s t : State) (r : FaultRecord), s.fault = none → step s = .next t → t.fault = some r →
    t = { s with fault := some r } ∧ r.fpc = s.pc

/-- R211: while a fault is recorded, execute and run_frame are refused, answer the record again, and change nothing;
the host-side ports stay usable. -/
def Obligations.FaultedBlockIsRefused : Prop :=
  ∀ (s : State) (r : FaultRecord), s.fault = some r →
    step s = .fault (.faulted r) ∧ perform .execute s = (s, .faulted r) ∧
    (∀ n, perform (.runFrame n) s = (s, .faulted r)) ∧
    (∀ v, perform (.setDelay v) s = ({ s with DT := v }, .ok)) ∧
    (∀ v, perform (.setSound v) s = ({ s with ST := v }, .ok)) ∧
    (∀ x y, perform (.isPixelSet x y) s = (s, .bool (s.pix.cell x y))) ∧
    (∀ x y on, perform (.setPixel x y on) s = (s.setPix (s.pix.put x y on), .ok)) ∧
    (∀ a, a < 4096 → perform (.readByte a) s = (s, .byte (s.mem.read a)) ∧
      ∀ v, perform (.writeByte a v) s = (s.setMem (s.mem.write a v), .ok)) ∧
    (∀ k : Fin 16, perform (.isPressed k.val) s = (s, .bool s.key[k]) ∧
      ∀ p, (perform (.setKeyState k.val p) s).2 = .ok ∧ (perform (.setKeyState k.val p) s).1.key[k] = p)

/-- R210: no operation but reset and a ROM load clears or overwrites a recorded fault, and both of those clear it. -/
def Obligations.OnlyResetClearsAFault : Prop :=
  ∀ (op : HostOp) (s : State) (r : FaultRecord), s.fault = some r →
    (perform op s).1.fault =
      match op with
      | .reset => none
      | .loadRom _ => none
      | _ => some r

/-! Control transfer. -/

/-- R103: a legacy system call emits one warning carrying its opcode and does nothing else. -/
def Obligations.SystemCallOnlyWarns : Prop :=
  ∀ (nnn : BitVec 12) (s : State), (encode (.sys nnn)).toNat = nnn.toNat ∧
    exec (.sys nnn) s = .next { s with pc := s.pc + 2, warnings := s.warnings ++ [encode (.sys nnn)] }

/-- R104: RET pops the top entry into pc and does not clear it; with no entry in use it faults. -/
def Obligations.ReturnPopsOrUnderflows : Prop :=
  ∀ s : State, encode .ret = 0x00EE ∧
    (s.sp ≠ 0 → ∃ t, exec .ret s = .next t ∧ t.sp.val + 1 = s.sp.val ∧
      (∀ j : Fin 16, j.val + 1 = s.sp.val → t.pc = s.stack[j]) ∧
      t = { s with pc := t.pc, sp := t.sp } ∧ ∀ a, t.mem.read a = s.mem.read a) ∧
    (s.sp = 0 → exec .ret s = .next { s with fault := some ⟨.stackUnderflow 0, s.pc⟩ })

/-- R106: CALL pushes the address after itself and jumps; with 16 entries in use it faults. -/
def Obligations.CallPushesOrOverflows : Prop :=
  ∀ (nnn : BitVec 12) (s : State), (encode (.call nnn)).toNat = 0x2000 + nnn.toNat ∧
    (s.sp ≠ 16 → ∃ t, exec (.call nnn) s = .next t ∧ t.pc.toNat = nnn.toNat ∧ t.sp.val = s.sp.val + 1 ∧
      (∀ j : Fin 16, t.stack[j] = if j.val = s.sp.val then s.pc + 2 else s.stack[j]) ∧
      t = { s with pc := t.pc, sp := t.sp, stack := t.stack } ∧ ∀ a, t.mem.read a = s.mem.read a) ∧
    (s.sp = 16 → exec (.call nnn) s = .next { s with fault := some ⟨.stackOverflow 16, s.pc⟩ })

/-- R106's corner case, the source's CALL and RET round trip: whatever ran in between, if it left the stack and sp as the
call did, the return goes to the address after the call with sp as before the call. -/
def Obligations.CallThenReturnComesBack : Prop :=
  ∀ (nnn : BitVec 12) (s : State), s.sp ≠ 16 →
    ∃ t, exec (.call nnn) s = .next t ∧
      ∀ t' : State, t'.stack = t.stack → t'.sp = t.sp →
        ∃ u, exec .ret t' = .next u ∧ u.pc = s.pc + 2 ∧ u.sp = s.sp

/-- R105, R111: jumps write pc and nothing else; Bnnn's target is a sum that is not masked to 12 bits. -/
def Obligations.JumpsSetOnlyPc : Prop :=
  ∀ (nnn : BitVec 12) (s : State),
    (encode (.jp nnn)).toNat = 0x1000 + nnn.toNat ∧ (encode (.jpV0 nnn)).toNat = 0xB000 + nnn.toNat ∧
    (∃ t, exec (.jp nnn) s = .next t ∧ t.pc.toNat = nnn.toNat ∧ t = { s with pc := t.pc } ∧
      ∀ a, t.mem.read a = s.mem.read a) ∧
    (∃ t, exec (.jpV0 nnn) s = .next t ∧ t.pc.toNat = (s.reg 0).toNat + nnn.toNat ∧ t = { s with pc := t.pc } ∧
      ∀ a, t.mem.read a = s.mem.read a)

/-- R107, R108, R112: the skips against an immediate. -/
def Obligations.ImmediateSkips : Prop :=
  ∀ (x : Reg) (kk : Byte) (s : State),
    (encode (.seImm x kk)).toNat = 0x3000 + 0x100 * x.val + kk.toNat ∧
    (encode (.sneImm x kk)).toNat = 0x4000 + 0x100 * x.val + kk.toNat ∧
    (∃ t, exec (.seImm x kk) s = .next t ∧ t.pc = (if s.reg x = kk then s.pc + 4 else s.pc + 2) ∧
      t = { s with pc := t.pc } ∧ ∀ a, t.mem.read a = s.mem.read a) ∧
    (∃ t, exec (.sneImm x kk) s = .next t ∧ t.pc = (if s.reg x = kk then s.pc + 2 else s.pc + 4) ∧
      t = { s with pc := t.pc } ∧ ∀ a, t.mem.read a = s.mem.read a)

/-- R109, R110, R112: the skips on two registers. -/
def Obligations.RegisterSkips : Prop :=
  ∀ (x y : Reg) (s : State),
    (encode (.seReg x y)).toNat = 0x5000 + 0x100 * x.val + 0x10 * y.val ∧
    (encode (.sneReg x y)).toNat = 0x9000 + 0x100 * x.val + 0x10 * y.val ∧
    (∃ t, exec (.seReg x y) s = .next t ∧ t.pc = (if s.reg x = s.reg y then s.pc + 4 else s.pc + 2) ∧
      t = { s with pc := t.pc } ∧ ∀ a, t.mem.read a = s.mem.read a) ∧
    (∃ t, exec (.sneReg x y) s = .next t ∧ t.pc = (if s.reg x = s.reg y then s.pc + 2 else s.pc + 4) ∧
      t = { s with pc := t.pc } ∧ ∀ a, t.mem.read a = s.mem.read a)

/-! Register loads, arithmetic and logic. -/

/-- R120, R122: an immediate or another register is copied to Vx, VF included, and no flag is written. -/
def Obligations.RegisterLoads : Prop :=
  ∀ (x y : Reg) (kk : Byte) (s : State),
    (encode (.ldImm x kk)).toNat = 0x6000 + 0x100 * x.val + kk.toNat ∧
    (encode (.ldReg x y)).toNat = 0x8000 + 0x100 * x.val + 0x10 * y.val ∧
    (∃ t, exec (.ldImm x kk) s = .next t ∧ t.reg x = kk ∧ s.sameRegsBut t [x] ∧ t.pc = s.pc + 2 ∧
      t = { s with V := t.V, pc := t.pc } ∧ s.sameBytes t) ∧
    (∃ t, exec (.ldReg x y) s = .next t ∧ t.reg x = s.reg y ∧ s.sameRegsBut t [x] ∧ t.pc = s.pc + 2 ∧
      t = { s with V := t.V, pc := t.pc } ∧ s.sameBytes t)

/-- R121: "8-bit wraparound, no flag side effect". -/
def Obligations.AddImmediateWrapsWithoutFlag : Prop :=
  ∀ (x : Reg) (kk : Byte) (s : State), (encode (.addImm x kk)).toNat = 0x7000 + 0x100 * x.val + kk.toNat ∧
    ∃ t, exec (.addImm x kk) s = .next t ∧ (t.reg x).toNat = ((s.reg x).toNat + kk.toNat) % 256 ∧
      s.sameRegsBut t [x] ∧ t.pc = s.pc + 2 ∧ t = { s with V := t.V, pc := t.pc } ∧ s.sameBytes t

/-- R123, R124, R125: the logic operations, bit by bit; VF is written only as a destination. -/
def Obligations.LogicIsBitwiseWithoutFlag : Prop :=
  ∀ (x y : Reg) (s : State),
    (encode (.orReg x y)).toNat = 0x8001 + 0x100 * x.val + 0x10 * y.val ∧
    (encode (.andReg x y)).toNat = 0x8002 + 0x100 * x.val + 0x10 * y.val ∧
    (encode (.xorReg x y)).toNat = 0x8003 + 0x100 * x.val + 0x10 * y.val ∧
    (∃ t, exec (.orReg x y) s = .next t ∧
      (∀ b < 8, (t.reg x).getLsbD b = ((s.reg x).getLsbD b || (s.reg y).getLsbD b)) ∧
      s.sameRegsBut t [x] ∧ t.pc = s.pc + 2 ∧ t = { s with V := t.V, pc := t.pc } ∧ s.sameBytes t) ∧
    (∃ t, exec (.andReg x y) s = .next t ∧
      (∀ b < 8, (t.reg x).getLsbD b = ((s.reg x).getLsbD b && (s.reg y).getLsbD b)) ∧
      s.sameRegsBut t [x] ∧ t.pc = s.pc + 2 ∧ t = { s with V := t.V, pc := t.pc } ∧ s.sameBytes t) ∧
    (∃ t, exec (.xorReg x y) s = .next t ∧
      (∀ b < 8, (t.reg x).getLsbD b = ((s.reg x).getLsbD b != (s.reg y).getLsbD b)) ∧
      s.sameRegsBut t [x] ∧ t.pc = s.pc + 2 ∧ t = { s with V := t.V, pc := t.pc } ∧ s.sameBytes t)

/-- R130: Vx gets the sum modulo 256 and VF the carry, unless x = F, where the sum overwrites the carry. -/
def Obligations.AddRegistersSetsCarry : Prop :=
  ∀ (x y : Reg) (s : State), (encode (.addReg x y)).toNat = 0x8004 + 0x100 * x.val + 0x10 * y.val ∧
    ∃ t, exec (.addReg x y) s = .next t ∧
      (t.reg x).toNat = ((s.reg x).toNat + (s.reg y).toNat) % 256 ∧
      (x ≠ 15 → (t.reg 15).toNat = if (s.reg x).toNat + (s.reg y).toNat > 255 then 1 else 0) ∧
      s.sameRegsBut t [x, 15] ∧ t.pc = s.pc + 2 ∧ t = { s with V := t.V, pc := t.pc } ∧ s.sameBytes t

/-- R131: Vx gets the difference modulo 256 and VF is 1 exactly on a borrow, unless x = F, where the difference
overwrites it. -/
def Obligations.SubtractSetsBorrow : Prop :=
  ∀ (x y : Reg) (s : State), (encode (.sub x y)).toNat = 0x8005 + 0x100 * x.val + 0x10 * y.val ∧
    ∃ t, exec (.sub x y) s = .next t ∧
      ((t.reg x).toNat : Int) = ((s.reg x).toNat - (s.reg y).toNat : Int) % 256 ∧
      (x ≠ 15 → (t.reg 15).toNat = if (s.reg x).toNat < (s.reg y).toNat then 1 else 0) ∧
      s.sameRegsBut t [x, 15] ∧ t.pc = s.pc + 2 ∧ t = { s with V := t.V, pc := t.pc } ∧ s.sameBytes t

/-- R133: the reverse difference goes to Vy, "not Vx", and VF is 1 exactly on its borrow, unless y = F, where the
difference overwrites it. -/
def Obligations.ReverseSubtractWritesVy : Prop :=
  ∀ (x y : Reg) (s : State), (encode (.subn x y)).toNat = 0x8007 + 0x100 * x.val + 0x10 * y.val ∧
    ∃ t, exec (.subn x y) s = .next t ∧
      ((t.reg y).toNat : Int) = ((s.reg y).toNat - (s.reg x).toNat : Int) % 256 ∧
      (y ≠ 15 → (t.reg 15).toNat = if (s.reg x).toNat > (s.reg y).toNat then 1 else 0) ∧
      s.sameRegsBut t [y, 15] ∧ t.pc = s.pc + 2 ∧ t = { s with V := t.V, pc := t.pc } ∧ s.sameBytes t

/-- R132, R134: shifts of Vx by one, logical, VF the bit shifted out, unless x = F; Vy is not read: any y does the same. -/
def Obligations.ShiftsMoveOneBitIntoVf : Prop :=
  ∀ (x y : Reg) (s : State),
    (encode (.shr x y)).toNat = 0x8006 + 0x100 * x.val + 0x10 * y.val ∧
    (encode (.shl x y)).toNat = 0x800E + 0x100 * x.val + 0x10 * y.val ∧
    (∀ y' : Reg, exec (.shr x y') s = exec (.shr x y) s ∧ exec (.shl x y') s = exec (.shl x y) s) ∧
    (∃ t, exec (.shr x y) s = .next t ∧ (t.reg x).toNat = (s.reg x).toNat / 2 ∧
      (x ≠ 15 → (t.reg 15).toNat = (s.reg x).toNat % 2) ∧
      s.sameRegsBut t [x, 15] ∧ t.pc = s.pc + 2 ∧ t = { s with V := t.V, pc := t.pc } ∧ s.sameBytes t) ∧
    (∃ t, exec (.shl x y) s = .next t ∧ (t.reg x).toNat = (s.reg x).toNat * 2 % 256 ∧
      (x ≠ 15 → (t.reg 15).toNat = (s.reg x).toNat / 128) ∧
      s.sameRegsBut t [x, 15] ∧ t.pc = s.pc + 2 ∧ t = { s with V := t.V, pc := t.pc } ∧ s.sameBytes t)

/-- R140: Annn writes I and no other register. -/
def Obligations.LoadIndexWritesI : Prop :=
  ∀ (nnn : BitVec 12) (s : State), (encode (.ldI nnn)).toNat = 0xA000 + nnn.toNat ∧
    ∃ t, exec (.ldI nnn) s = .next t ∧ t.I.toNat = nnn.toNat ∧ t.pc = s.pc + 2 ∧
      t = { s with I := t.I, pc := t.pc } ∧ s.sameBytes t

/-- R141: Vx gets the one byte the environment draws for the mask, which is at most the mask and otherwise unknown. -/
def Obligations.RandomByteIsAtMostTheMask : Prop :=
  ∀ (x : Reg) (kk : Byte) (s : State), (encode (.rnd x kk)).toNat = 0xC000 + 0x100 * x.val + kk.toNat ∧
    ∃ t, exec (.rnd x kk) s = .next t ∧ (t.reg x).toNat = (Config.rndDraw s.draws kk).val ∧
      (t.reg x).toNat ≤ kk.toNat ∧ t.draws = s.draws + 1 ∧
      s.sameRegsBut t [x] ∧ t.pc = s.pc + 2 ∧ t = { s with V := t.V, pc := t.pc, draws := t.draws } ∧ s.sameBytes t

/-! Display. -/

/-- R154, R151: 00E0 unlights every cell and writes no flag. -/
def Obligations.ClearScreenUnlightsEveryCell : Prop :=
  ∀ s : State, encode .cls = 0x00E0 ∧
    ∃ t, exec .cls s = .next t ∧ (∀ x y : Int, t.pix.cell x y = false) ∧ t.pc = s.pc + 2 ∧
      t = { s with pix := t.pix, pc := t.pc } ∧ s.sameBytes t

/-- R153, R152, R150: where the sprite's bytes are in memory, a draw toggles exactly the cells under the sprite's set
bits, wrapping on both axes, and VF says whether one of them was lit; the origin is the value of Vx and Vy before the
cycle, also when x or y is F. Where they are not, the draw faults and changes nothing. -/
def Obligations.DrawTogglesTheSpriteCells : Prop :=
  ∀ (x y : Reg) (n : Fin 16) (s : State),
    (encode (.drw x y n)).toNat = 0xD000 + 0x100 * x.val + 0x10 * y.val + n.val ∧
    (n.val = 0 ∨ s.I.toNat + n.val - 1 < 4096 →
      ∃ t, exec (.drw x y n) s = .next t ∧
        (∀ X Y : Int, t.pix.cell X Y =
          (s.pix.cell X Y != spriteBit (s.reg x).toNat (s.reg y).toNat (s.bytesAtI n.val) X Y)) ∧
        (t.reg 15 = 0 ∨ t.reg 15 = 1) ∧
        (t.reg 15 = 1 ↔ ∃ X Y : Int,
          spriteBit (s.reg x).toNat (s.reg y).toNat (s.bytesAtI n.val) X Y = true ∧ s.pix.cell X Y = true) ∧
        s.sameRegsBut t [15] ∧ t.pc = s.pc + 2 ∧ t = { s with V := t.V, pix := t.pix, pc := t.pc } ∧
        s.sameBytes t) ∧
    (n.val ≠ 0 → 4096 ≤ s.I.toNat + n.val - 1 →
      exec (.drw x y n) s = .next { s with fault := some ⟨.memoryOutOfRange (max s.I.toNat 4096), s.pc⟩ })

/-- R153's corner case, with R152's loop: drawing the same sprite at the same origin again restores the display; the second
draw reports a collision exactly when a set bit of the sprite was on an unlit cell before the first (log entry 11). -/
def Obligations.DrawingTwiceRestoresTheDisplay : Prop :=
  ∀ (x y : Reg) (n : Fin 16) (s : State), n.val = 0 ∨ s.I.toNat + n.val - 1 < 4096 →
    ∃ t, exec (.drw x y n) s = .next t ∧
      ∀ t' : State, t'.pix = t.pix → t'.mem = s.mem → t'.I = s.I → t'.reg x = s.reg x → t'.reg y = s.reg y →
        ∃ u, exec (.drw x y n) t' = .next u ∧ (∀ X Y : Int, u.pix.cell X Y = s.pix.cell X Y) ∧
          (u.reg 15 = 1 ↔ ∃ X Y : Int,
            spriteBit (s.reg x).toNat (s.reg y).toNat (s.bytesAtI n.val) X Y = true ∧ s.pix.cell X Y = false)

/-! Keys and timers. -/

/-- R160, R161, R202: the key skips test the key whose number is the value of Vx and write nothing but pc; a number of
16 or more faults. -/
def Obligations.KeySkips : Prop :=
  ∀ (x : Reg) (s : State),
    (encode (.skp x)).toNat = 0xE09E + 0x100 * x.val ∧ (encode (.sknp x)).toNat = 0xE0A1 + 0x100 * x.val ∧
    (∀ k : Fin 16, (s.reg x).toNat = k.val →
      (∃ t, exec (.skp x) s = .next t ∧ t.pc = (if s.key[k] = true then s.pc + 4 else s.pc + 2) ∧
        t = { s with pc := t.pc } ∧ s.sameBytes t) ∧
      (∃ t, exec (.sknp x) s = .next t ∧ t.pc = (if s.key[k] = true then s.pc + 2 else s.pc + 4) ∧
        t = { s with pc := t.pc } ∧ s.sameBytes t)) ∧
    (16 ≤ (s.reg x).toNat →
      exec (.skp x) s = .next { s with fault := some ⟨.keyOutOfRange (s.reg x), s.pc⟩ } ∧
      exec (.sknp x) s = .next { s with fault := some ⟨.keyOutOfRange (s.reg x), s.pc⟩ })

/-- R163: Fx0A consumes a latched key, whether or not it is still held; with an empty latch the cycle leaves the whole
state as it was, pc included. -/
def Obligations.KeyWaitConsumesOrRepeats : Prop :=
  ∀ (x : Reg) (s : State), (encode (.ldVxK x)).toNat = 0xF00A + 0x100 * x.val ∧
    (∀ k, s.latch = some k →
      ∃ t, exec (.ldVxK x) s = .next t ∧ (t.reg x).toNat = k.val ∧ t.latch = none ∧ s.sameRegsBut t [x] ∧
        t.pc = s.pc + 2 ∧ t = { s with V := t.V, latch := t.latch, pc := t.pc } ∧ s.sameBytes t) ∧
    (s.latch = none → exec (.ldVxK x) s = .next s)

/-- R162: Fx07 copies the delay timer to Vx. -/
def Obligations.DelayTimerIsRead : Prop :=
  ∀ (x : Reg) (s : State), (encode (.ldVxDT x)).toNat = 0xF007 + 0x100 * x.val ∧
    ∃ t, exec (.ldVxDT x) s = .next t ∧ t.reg x = s.DT ∧ s.sameRegsBut t [x] ∧ t.pc = s.pc + 2 ∧
      t = { s with V := t.V, pc := t.pc } ∧ s.sameBytes t

/-! FX-EXT: every rule here is the spec's own decision D6, from general knowledge (log entry 5). -/

/-- R170, R171 (decision D6, log entry 5): Fx15 and Fx18 copy Vx to the delay and the sound timer. -/
def Obligations.TimersAreWritten : Prop :=
  ∀ (x : Reg) (s : State),
    (encode (.ldDTVx x)).toNat = 0xF015 + 0x100 * x.val ∧ (encode (.ldSTVx x)).toNat = 0xF018 + 0x100 * x.val ∧
    (∃ t, exec (.ldDTVx x) s = .next t ∧ t.DT = s.reg x ∧ t.pc = s.pc + 2 ∧
      t = { s with DT := t.DT, pc := t.pc } ∧ s.sameBytes t) ∧
    (∃ t, exec (.ldSTVx x) s = .next t ∧ t.ST = s.reg x ∧ t.pc = s.pc + 2 ∧
      t = { s with ST := t.ST, pc := t.pc } ∧ s.sameBytes t)

/-- R172, R173 (decision D6, log entry 5): the index arithmetic; VF is not written and nothing is bounds-checked. Fx29
also for any FONT_BASE at which the font is in memory. -/
def Obligations.IndexArithmetic : Prop :=
  ∀ (x : Reg) (s : State),
    (encode (.addIVx x)).toNat = 0xF01E + 0x100 * x.val ∧ (encode (.ldFVx x)).toNat = 0xF029 + 0x100 * x.val ∧
    (∃ t, exec (.addIVx x) s = .next t ∧ t.I.toNat = (s.I.toNat + (s.reg x).toNat) % 65536 ∧ t.pc = s.pc + 2 ∧
      t = { s with I := t.I, pc := t.pc } ∧ s.sameBytes t) ∧
    (∃ t, exec (.ldFVx x) s = .next t ∧ t.I.toNat = 5 * ((s.reg x).toNat % 16) ∧ t.pc = s.pc + 2 ∧
      t = { s with I := t.I, pc := t.pc } ∧ s.sameBytes t) ∧
    (∀ base, base + 80 ≤ 4096 →
      ∃ t, execIn base (.ldFVx x) s = .next t ∧ t.I.toNat = base + 5 * ((s.reg x).toNat % 16) ∧ t.pc = s.pc + 2 ∧
        t = { s with I := t.I, pc := t.pc } ∧ s.sameBytes t)

/-- R174 (decision D6, log entry 5): the three decimal digits of Vx go to I, I+1, I+2 and no other byte changes; if one of the three is not in memory
the cycle faults and changes nothing. -/
def Obligations.DecimalStoreWritesThreeDigits : Prop :=
  ∀ (x : Reg) (s : State), s.mem.wf = true → (encode (.ldBVx x)).toNat = 0xF033 + 0x100 * x.val ∧
    (s.I.toNat + 2 < 4096 →
      ∃ t, exec (.ldBVx x) s = .next t ∧
        (t.mem.read s.I.toNat).toNat = (s.reg x).toNat / 100 ∧
        (t.mem.read (s.I.toNat + 1)).toNat = (s.reg x).toNat / 10 % 10 ∧
        (t.mem.read (s.I.toNat + 2)).toNat = (s.reg x).toNat % 10 ∧
        (∀ a, a < s.I.toNat ∨ s.I.toNat + 2 < a → t.mem.read a = s.mem.read a) ∧
        t.pc = s.pc + 2 ∧ t = { s with mem := t.mem, pc := t.pc }) ∧
    (4096 ≤ s.I.toNat + 2 →
      exec (.ldBVx x) s = .next { s with fault := some ⟨.memoryOutOfRange (max s.I.toNat 4096), s.pc⟩ })

/-- R175 (decision D6, log entry 5): V0 to Vx go to the bytes from I up, I is not changed, and no other byte changes; if one of the bytes is not in
memory the cycle faults and changes nothing. -/
def Obligations.StoreRegistersWritesV0ToVx : Prop :=
  ∀ (x : Reg) (s : State), s.mem.wf = true → (encode (.storeRegs x)).toNat = 0xF055 + 0x100 * x.val ∧
    (s.I.toNat + x.val < 4096 →
      ∃ t, exec (.storeRegs x) s = .next t ∧ (∀ i : Reg, i ≤ x → t.mem.read (s.I.toNat + i.val) = s.reg i) ∧
        (∀ a, a < s.I.toNat ∨ s.I.toNat + x.val < a → t.mem.read a = s.mem.read a) ∧
        t.pc = s.pc + 2 ∧ t = { s with mem := t.mem, pc := t.pc }) ∧
    (4096 ≤ s.I.toNat + x.val →
      exec (.storeRegs x) s = .next { s with fault := some ⟨.memoryOutOfRange (max s.I.toNat 4096), s.pc⟩ })

/-- R176 (decision D6, log entry 5): V0 to Vx come from the bytes from I up, the other registers and I are not changed; if one of the bytes is not in
memory the cycle faults and changes nothing. -/
def Obligations.LoadRegistersReadsV0ToVx : Prop :=
  ∀ (x : Reg) (s : State), (encode (.loadRegs x)).toNat = 0xF065 + 0x100 * x.val ∧
    (s.I.toNat + x.val < 4096 →
      ∃ t, exec (.loadRegs x) s = .next t ∧
        (∀ i : Reg, t.reg i = if i ≤ x then s.mem.read (s.I.toNat + i.val) else s.reg i) ∧
        t.pc = s.pc + 2 ∧ t = { s with V := t.V, pc := t.pc } ∧ s.sameBytes t) ∧
    (4096 ≤ s.I.toNat + x.val →
      exec (.loadRegs x) s = .next { s with fault := some ⟨.memoryOutOfRange (max s.I.toNat 4096), s.pc⟩ })

/-- R175 and R176 together (decisions D6 and D24, log entry 5): loading from where V0 to Vx were stored gives them back, whatever ran in between left memory
and I alone. -/
def Obligations.StoreThenLoadGivesRegistersBack : Prop :=
  ∀ (x : Reg) (s : State), s.mem.wf = true → s.I.toNat + x.val < 4096 →
    ∃ t, exec (.storeRegs x) s = .next t ∧
      ∀ t' : State, t'.mem = t.mem → t'.I = t.I →
        ∃ u, exec (.loadRegs x) t' = .next u ∧ ∀ i : Reg, i ≤ x → u.reg i = s.reg i

/-- 20_memory.md R61, 70_reset_and_hazards.md R261: an opcode stored by Fx55 over the next instruction is the one the
next cycle performs. -/
def Obligations.StoredOpcodeIsFetchedNext : Prop :=
  ∀ (x : Reg) (s : State) (i : Instr), s.mem.wf = true → s.fault = none → i.WellFormed → 1 ≤ x.val →
    s.I.toNat + x.val < 4096 → s.I = s.pc + 2 → s.reg 0 = hiByte (encode i) → s.reg 1 = loByte (encode i) →
    ∃ t, exec (.storeRegs x) s = .next t ∧ step t = exec i t

/-! The whole machine. -/

/-- 10_state.md R21 and R23 to R33, 40_control.md R113: which instructions write which state. Keys and the run state are
written by none; every other item only by the instructions named. R113's list of pc's writers omits Ex9E and ExA1;
43_input_timer.md R160 and R161 have them write pc, and are followed here (DEDUCED, log entry 21). -/
def Obligations.WhoWritesWhat : Prop :=
  ∀ (i : Instr) (s t : State), exec i s = .next t →
    t.key = s.key ∧ t.run = s.run ∧
    (t.I ≠ s.I → (∃ nnn, i = .ldI nnn) ∨ ∃ x, i = .addIVx x ∨ i = .ldFVx x) ∧
    (t.sp ≠ s.sp ∨ t.stack ≠ s.stack → i = .ret ∨ ∃ nnn, i = .call nnn) ∧
    (t.DT ≠ s.DT → ∃ x, i = .ldDTVx x) ∧
    (t.ST ≠ s.ST → ∃ x, i = .ldSTVx x) ∧
    (t.latch ≠ s.latch → ∃ x, i = .ldVxK x) ∧
    (t.pix ≠ s.pix → i = .cls ∨ ∃ x y n, i = .drw x y n) ∧
    (t.mem ≠ s.mem → ∃ x, i = .ldBVx x ∨ i = .storeRegs x) ∧
    (t.draws ≠ s.draws → ∃ x kk, i = .rnd x kk) ∧
    (t.warnings ≠ s.warnings → ∃ nnn, i = .sys nnn) ∧
    (t.pc ≠ s.pc + 2 → t.fault = none →
      i = .ret ∨ (∃ nnn, i = .jp nnn ∨ i = .call nnn ∨ i = .jpV0 nnn) ∨
      (∃ x kk, i = .seImm x kk ∨ i = .sneImm x kk) ∨ (∃ x y, i = .seReg x y ∨ i = .sneReg x y) ∨
      ∃ x, i = .skp x ∨ i = .sknp x ∨ i = .ldVxK x)

/-- 10_state.md R21: "No other instruction writes VF, except through its x (or, for 8xy7, y) field naming register F as an
ordinary destination", and here Fx65, whose x = F loads all sixteen registers. -/
def Obligations.OnlyFlagWritersChangeVf : Prop :=
  ∀ (i : Instr) (s t : State), exec i s = .next t → t.reg 15 ≠ s.reg 15 →
    (∃ x y, i = .addReg x y ∨ i = .sub x y ∨ i = .shr x y ∨ i = .subn x y ∨ i = .shl x y) ∨
    (∃ x y n, i = .drw x y n) ∨
    (∃ kk, i = .ldImm 15 kk ∨ i = .addImm 15 kk ∨ i = .rnd 15 kk) ∨
    (∃ y, i = .ldReg 15 y ∨ i = .orReg 15 y ∨ i = .andReg 15 y ∨ i = .xorReg 15 y) ∨
    i = .ldVxDT 15 ∨ i = .ldVxK 15 ∨ i = .loadRegs 15

/-- 10_state.md R27 ("No instruction reads ST"), 60_exceptions.md R235 (execute ignores run) and R228 (no instruction
reads the warnings): a cycle from two states that differ in these alone ends in states that differ in these alone. For
Cxkk this rests on the model's own choice that the byte drawn is a function of the draw counter and the mask, equal in
both states (DESIGN CHOICE, log entry 2, unsafe for a claim that compares two runs): it is stated for equal draws. -/
def Obligations.NoInstructionReadsSoundRunOrWarnings : Prop :=
  ∀ (s t : State) (v : Byte) (b : RunState) (w : List Word), step s = .next t →
    ∃ t', step { s with ST := v, run := b, warnings := w } = .next t' ∧
      t' = { t with ST := t'.ST, run := t'.run, warnings := t'.warnings } ∧ t'.run = b

/-- 10_state.md R25: the entries at and above sp are stale, and no instruction can observe them: two states that differ
in them alone take the same cycle, and still differ at most in stale entries. For Cxkk this rests on the model's own
choice that the byte drawn is a function of the draw counter and the mask, equal in both states (DESIGN CHOICE, log entry
2, unsafe for a claim that compares two runs): it is stated for equal draws. -/
def Obligations.StaleStackEntriesAreUnobservable : Prop :=
  ∀ (s t : State) (k : Vector Word 16), (∀ j : Fin 16, j.val < s.sp.val → k[j] = s.stack[j]) →
    step s = .next t →
    ∃ t', step { s with stack := k } = .next t' ∧ t' = { t with stack := t'.stack } ∧
      ∀ j : Fin 16, j.val < t.sp.val → t'.stack[j] = t.stack[j]

/-- The invariant (Safety.lean) holds after reset. -/
def Obligations.ResetMeetsTheInvariant : Prop := State.reset.Inv

/-- Every cycle keeps the invariant: memory stays in canonical form, pc at most 0x10FE and every return address at most
0x1000 (40_control.md R102), a latched key stays held (decision D9), and a recorded fault is legal and names the pc. -/
def Obligations.EveryCycleKeepsTheInvariant : Prop :=
  ∀ s t : State, s.Inv → step s = .next t → t.Inv

/-- Every operation of the host keeps the invariant, whole frames and ROM loads among them (60_exceptions.md R230). -/
def Obligations.EveryHostOperationKeepsTheInvariant : Prop :=
  ∀ (op : HostOp) (s : State), s.Inv → (perform op s).1.Inv

/-! Reset and the host's operations. -/

/-- 70_reset_and_hazards.md R250, R251: reset from any state, and the state after construction. -/
def Obligations.ResetSetsEveryItem : Prop :=
  (∀ s : State, ∃ t, perform .reset s = (t, .ok) ∧ (∀ r, t.reg r = 0) ∧ t.I = 0 ∧ t.pc = 0x200 ∧ t.sp = 0 ∧
    (∀ j : Fin 16, t.stack[j] = 0) ∧ t.DT = 0 ∧ t.ST = 0 ∧ (∀ k : Fin 16, t.key[k] = false) ∧ t.latch = none ∧
    (∀ x y : Int, t.pix.cell x y = false) ∧
    (∀ a, t.mem.read a = if a < 80 then fontTable.getD a 0 else 0) ∧ fontTable.length = 80 ∧
    t.fault = none ∧ t.run = .stopped) ∧
  perform .reset State.reset = (State.reset, .ok)

/-- R252, R253: a ROM load resets first; an empty ROM or one of more than 3584 bytes leaves the reset state; any other
is copied from 0x200 up and the block is running. -/
def Obligations.LoadRomCopiesAndRuns : Prop :=
  ∀ (bytes : List Byte) (s : State),
    (bytes.length = 0 → perform (.loadRom bytes) s = ((perform .reset s).1, .error .romEmpty)) ∧
    (3584 < bytes.length → perform (.loadRom bytes) s = ((perform .reset s).1, .error .romTooLarge)) ∧
    (0 < bytes.length → bytes.length ≤ 3584 →
      ∃ t, perform (.loadRom bytes) s = (t, .ok) ∧ t.run = .running ∧
        (∀ i, i < bytes.length → t.mem.read (0x200 + i) = bytes.getD i 0) ∧
        (∀ a, a < 0x200 ∨ 0x200 + bytes.length ≤ a → t.mem.read a = State.reset.mem.read a) ∧
        t = { (perform .reset s).1 with mem := t.mem, run := t.run })

/-- R220, R221: a tick takes one from each counter that is not zero, each on its own, and changes nothing else; beep is
"ST > 0". -/
def Obligations.TickCountsDownToZero : Prop :=
  ∀ s : State,
    (∃ t, perform .tick s = (t, .ok) ∧ t.DT.toNat = s.DT.toNat - 1 ∧ t.ST.toNat = s.ST.toNat - 1 ∧
      t = { s with DT := t.DT, ST := t.ST }) ∧
    perform .beep s = (s, .bool (decide (0 < s.ST.toNat)))

/-- 70_reset_and_hazards.md R262: "A delay of `d` set at any cycle of a frame reaches 0 after exactly `d` frame-end
ticks": the count after n ticks, and never below zero. -/
def Obligations.DelayReachesZeroAfterItsTicks : Prop :=
  ∀ (n : Nat) (s : State), (tick^[n] s).DT.toNat = s.DT.toNat - n ∧ (tick^[n] s).ST.toNat = s.ST.toNat - n

/-- R231, R232, R234: a frame whose cycles do not fault is that many cycles back to back and then one tick, and its sound
is read after the tick. -/
def Obligations.FrameIsItsCyclesThenOneTick : Prop :=
  ∀ (n : Nat) (s t : State), n ≠ 0 → s.fault = none → s.run = .running →
    Sys2Proof.core.run n s = .next t → t.fault = none →
    perform (.runFrame n) s = ((perform .tick t).1, .frame true (decide (0 < t.ST.toNat - 1)))

/-- R233: a fault in a frame ends it at the faulting cycle, with no tick, the earlier cycles committed, and the run state
as it was. -/
def Obligations.FaultEndsTheFrameWithoutTick : Prop :=
  ∀ (k n : Nat) (s t : State) (r : FaultRecord), s.fault = none → s.run = .running → k ≤ n →
    Sys2Proof.core.run k s = .next t → t.fault = some r →
    perform (.runFrame n) s = (t, .faulted r) ∧ t.run = .running

/-- R231, D20: an override of 0 means the block's own cycle count, which is at least 1 and otherwise open; a stopped
block runs no frame and reports no sound. In a block built with any parameters override 0 means its CYCLES_PER_FRAME. -/
def Obligations.FrameOverrideAndStoppedBlock : Prop :=
  (∃ n, 1 ≤ n ∧ ∀ s : State, perform (.runFrame 0) s = perform (.runFrame n) s) ∧
  (∀ (p : Config.Params) (s : State), performIn p (.runFrame 0) s = performIn p (.runFrame p.cyclesPerFrame) s) ∧
  ∀ (n : Nat) (s : State), s.fault = none → s.run = .stopped →
    perform (.runFrame n) s = (s, .frame false false)

/-- R224, R225, R229: a press sets the key and the latch; a release clears the key and, by the policy, the latch; a key
number of 16 or more is an error to the host and changes nothing (that it carries nothing is the model's choice, log
entry 20). -/
def Obligations.KeyEventsSetKeyAndLatch : Prop :=
  ∀ (policy : Config.LatchPolicy) (s : State),
    (∀ k : Fin 16,
      (∃ t, setKeyStateWith policy k.val true s = (t, .ok) ∧ t.latch = some k ∧
        (∀ j : Fin 16, t.key[j] = if j = k then true else s.key[j]) ∧
        t = { s with key := t.key, latch := t.latch }) ∧
      (∃ t, setKeyStateWith policy k.val false s = (t, .ok) ∧
        t.latch = (if policy = .clearIfSame ∧ s.latch = some k then none else s.latch) ∧
        (∀ j : Fin 16, t.key[j] = if j = k then false else s.key[j]) ∧
        t = { s with key := t.key, latch := t.latch }) ∧
      perform (.isPressed k.val) s = (s, .bool s.key[k])) ∧
    (∀ k, 16 ≤ k →
      (∀ p, setKeyStateWith policy k p s = (s, .error .outOfRange)) ∧
      perform (.isPressed k) s = (s, .error .outOfRange)) ∧
    (∀ k p, perform (.setKeyState k p) s = setKeyStateWith .clearIfSame k p s) ∧
    ∀ (b : Config.Params) (k : Nat) (p : Bool),
      performIn b (.setKeyState k p) s = setKeyStateWith b.latchPolicy k p s

/-- R227, 42_display.md R150: the pixel ports wrap coordinates of any sign on both axes. -/
def Obligations.PixelPortsWrap : Prop :=
  ∀ (s : State) (x y : Int) (on : Bool),
    (∀ (i : Fin 64) (j : Fin 32), x % 64 = i.val → y % 32 = j.val →
      perform (.isPixelSet x y) s = (s, .bool s.pix[i][j])) ∧
    ∃ t, perform (.setPixel x y on) s = (t, .ok) ∧ t = { s with pix := t.pix } ∧
      ∀ x' y' : Int, perform (.isPixelSet x' y') t =
        (t, .bool (if x' % 64 = x % 64 ∧ y' % 32 = y % 32 then on else s.pix.cell x' y'))

/-- 20_memory.md R63, R52, R53: the host's memory port reads, writes and reads big-endian pairs inside the address space;
an access with a byte outside it is an error that names the lowest such address and changes nothing. -/
def Obligations.MemoryPortChecksBounds : Prop :=
  ∀ (s : State) (a : Nat) (v : Byte), s.mem.wf = true →
    (a < 4096 → perform (.readByte a) s = (s, .byte (s.mem.read a)) ∧
      ∃ t, perform (.writeByte a v) s = (t, .ok) ∧ t = { s with mem := t.mem } ∧
        ∀ b, t.mem.read b = if b = a then v else s.mem.read b) ∧
    (4096 ≤ a → perform (.readByte a) s = (s, .error (.memoryOutOfRange a)) ∧
      perform (.writeByte a v) s = (s, .error (.memoryOutOfRange a))) ∧
    (a + 1 < 4096 → ∃ w : Word, perform (.readTwoBytes a) s = (s, .word w) ∧
      w.toNat = (s.mem.read a).toNat * 256 + (s.mem.read (a + 1)).toNat) ∧
    (4096 ≤ a + 1 → perform (.readTwoBytes a) s = (s, .error (.memoryOutOfRange (max a 4096))))

/-- R222, R236: the timer port and the run control. -/
def Obligations.TimerPortAndRunControl : Prop :=
  ∀ (s : State) (v : Byte) (b : Bool),
    perform (.setDelay v) s = ({ s with DT := v }, .ok) ∧ perform (.setSound v) s = ({ s with ST := v }, .ok) ∧
    perform .delay s = (s, .byte s.DT) ∧ perform .sound s = (s, .byte s.ST) ∧
    perform (.setRunning b) s = ({ s with run := if b then .running else .stopped }, .ok)

/-- 20_memory.md R56 and R57, 00_scope.md R7: FONT_TABLE and FONT_BASE are parameters. In a block with any legal ones,
reset puts row r of glyph g at FONT_BASE + 5 * g + r and zero everywhere else, and a ROM load copies over that; no other
operation depends on FONT_TABLE. -/
def Obligations.FontTableIsAParameter : Prop :=
  ∀ (p : Config.Params) (s : State), p.Legal →
    (∃ t, performIn p .reset s = (t, .ok) ∧ t.mem.wf = true ∧
      (∀ (g : Fin 16) (r : Fin 5),
        t.mem.read (p.fontBase + (5 * g.val + r.val)) = p.fontTable[5 * g.val + r.val]) ∧
      (∀ a, a < p.fontBase ∨ p.fontBase + 80 ≤ a → t.mem.read a = 0) ∧
      t = { (perform .reset s).1 with mem := t.mem } ∧
      ∀ bytes : List Byte, 0 < bytes.length → bytes.length ≤ 3584 →
        ∃ u, performIn p (.loadRom bytes) s = (u, .ok) ∧ u.mem.wf = true ∧
          (∀ i, i < bytes.length → u.mem.read (0x200 + i) = bytes.getD i 0) ∧
          (∀ a, a < 0x200 ∨ 0x200 + bytes.length ≤ a → u.mem.read a = t.mem.read a) ∧
          u = { t with mem := u.mem, run := .running }) ∧
    (∀ (font : Config.FontTable) (op : HostOp), op ≠ .reset → (∀ bytes, op ≠ .loadRom bytes) →
      performIn { p with fontTable := font } op s = performIn p op s) ∧
    (∀ (font : Config.FontTable) (op : HostOp), op ≠ .reset → (∀ bytes, op ≠ .loadRom bytes) →
      performWith font op s = perform op s)

/-- 70_reset_and_hazards.md R271, in the model's own terms of final and hung (Safety.lean; DESIGN CHOICE, log entry 22): a
state is final exactly if its step has no next state; the hangs in one place are exactly the jump to its own address, by
1nnn or Bnnn, and Fx0A on an empty latch; and a hung state stays as it is through any number of cycles. -/
def Obligations.RunsEndOnlyInAFault : Prop :=
  ∀ s : State,
    (s.isFinal ↔ ∀ t, step s ≠ .next t) ∧
    (s.hung ↔ s.fault = none ∧ s.pc.toNat + 2 ≤ 4096 ∧ ∃ i,
      decodeOp Config.fxExt (bigEndian (s.mem.read s.pc.toNat) (s.mem.read (s.pc.toNat + 1))) = .ok i ∧
      ((∃ nnn, i = .jp nnn ∧ nnn.toNat = s.pc.toNat) ∨
        (∃ nnn, i = .jpV0 nnn ∧ (s.reg 0).toNat + nnn.toNat = s.pc.toNat) ∨
        ∃ x, i = .ldVxK x ∧ s.latch = none)) ∧
    (s.hung → ∀ n, Sys2Proof.core.run n s = .next s)
end

