-- ==== Sys2Proof/Laws/Decode.lean ====
section
/-! SUPPORT. The fields of an opcode built from fields are those fields (spec 30_encoding.md R71), and what an opcode
keeps under each of the three masks of spec/opcode_table.json. -/

namespace Sys2Proof

theorem formNNN_toNat {f : Nat} (hf : f < 16) (nnn : BitVec 12) : (formNNN f nnn).toNat = f * 4096 + nnn.toNat := by
  have := nnn.isLt
  simp only [formNNN, BitVec.toNat_ofNat]
  omega

theorem formXKK_toNat {f kk : Nat} (hf : f < 16) (x : Reg) (hk : kk < 256) :
    (formXKK f x kk).toNat = f * 4096 + x.val * 256 + kk := by
  have := x.isLt
  simp only [formXKK, BitVec.toNat_ofNat]
  omega

theorem formXYN_toNat {f n : Nat} (hf : f < 16) (x y : Reg) (hn : n < 16) :
    (formXYN f x y n).toNat = f * 4096 + x.val * 256 + y.val * 16 + n := by
  have := x.isLt
  have := y.isLt
  simp only [formXYN, BitVec.toNat_ofNat]
  omega

/-- The fields of an opcode in arithmetic. -/
theorem fields_eq (op : Word) :
    fieldF op = op.toNat / 4096 % 16 ∧ (fieldX op).val = op.toNat / 256 % 16 ∧ (fieldY op).val = op.toNat / 16 % 16 ∧
      bits op 3 0 = op.toNat % 16 ∧ bits op 7 0 = op.toNat % 256 ∧ bits op 11 0 = op.toNat % 4096 := by
  simp [fieldF, fieldX, fieldY, bits]

/-- The two bytes of an opcode, most significant first, give the opcode back (20_memory.md R53). -/
theorem bigEndian_opBytes (op : Word) : bigEndian (hiByte op) (loByte op) = op := by
  apply BitVec.eq_of_toNat_eq
  have := op.isLt
  simp only [bigEndian, hiByte, loByte, bits, BitVec.toNat_ofNat]
  omega

/-- A bit of a 16-bit value in arithmetic. -/
theorem getLsbD_eq_div (v : Word) (i : Nat) : v.getLsbD i = decide (v.toNat / 2 ^ i % 2 = 1) := by
  rw [BitVec.getLsbD, Nat.testBit_eq_decide_div_mod_eq]

/-- Masking with 0xF000 keeps the family nibble. -/
theorem and_F000 (op : Word) : op &&& 0xF000 = BitVec.ofNat 16 (op.toNat / 4096 * 4096) := by
  have hop := op.isLt
  have hlt : op.toNat / 4096 * 4096 < 65536 := by omega
  refine BitVec.eq_of_getLsbD_eq fun i hi => ?_
  rw [BitVec.getLsbD_and, getLsbD_eq_div op, getLsbD_eq_div (BitVec.ofNat 16 _), getLsbD_eq_div (0xF000 : Word),
    BitVec.toNat_ofNat, Nat.mod_eq_of_lt hlt, ← Bool.decide_and, decide_eq_decide]
  interval_cases i <;> simp <;> omega

/-- Masking with 0xF00F keeps the family nibble and the low nibble. -/
theorem and_F00F (op : Word) : op &&& 0xF00F = BitVec.ofNat 16 (op.toNat / 4096 * 4096 + op.toNat % 16) := by
  have hop := op.isLt
  have hlt : op.toNat / 4096 * 4096 + op.toNat % 16 < 65536 := by omega
  refine BitVec.eq_of_getLsbD_eq fun i hi => ?_
  rw [BitVec.getLsbD_and, getLsbD_eq_div op, getLsbD_eq_div (BitVec.ofNat 16 _), getLsbD_eq_div (0xF00F : Word),
    BitVec.toNat_ofNat, Nat.mod_eq_of_lt hlt, ← Bool.decide_and, decide_eq_decide]
  interval_cases i <;> simp <;> omega

/-- Masking with 0xF0FF keeps the family nibble and the low byte. -/
theorem and_F0FF (op : Word) : op &&& 0xF0FF = BitVec.ofNat 16 (op.toNat / 4096 * 4096 + op.toNat % 256) := by
  have hop := op.isLt
  have hlt : op.toNat / 4096 * 4096 + op.toNat % 256 < 65536 := by omega
  refine BitVec.eq_of_getLsbD_eq fun i hi => ?_
  rw [BitVec.getLsbD_and, getLsbD_eq_div op, getLsbD_eq_div (BitVec.ofNat 16 _), getLsbD_eq_div (0xF0FF : Word),
    BitVec.toNat_ofNat, Nat.mod_eq_of_lt hlt, ← Bool.decide_and, decide_eq_decide]
  interval_cases i <;> simp <;> omega

end Sys2Proof
end

