-- ==== Sys2Proof/Laws/Display.lean ====
section
/-! SUPPORT. The laws of the display: reading a cell after a write, and what the loops of spec 42_display.md R152 do to
every cell and to the collision result. -/

namespace Sys2Proof.Machine

theorem wrapX_eq_iff (x x' : Int) : wrapX x = wrapX x' ↔ (x - x') % 64 = 0 := by
  simp only [wrapX, Fin.mk.injEq]
  omega

theorem wrapY_eq_iff (y y' : Int) : wrapY y = wrapY y' ↔ (y - y') % 32 = 0 := by
  simp only [wrapY, Fin.mk.injEq]
  omega

/-- Reading a cell after a cell write: the value written on the same wrapped cell, or as before (R150). -/
theorem Display.cell_put (d : Display) (x y : Int) (on : Bool) (x' y' : Int) :
    (d.put x y on).cell x' y' =
      if (x - x') % 64 = 0 ∧ (y - y') % 32 = 0 then on else d.cell x' y' := by
  simp only [← wrapX_eq_iff, ← wrapY_eq_iff]
  simp only [Display.cell, Display.put, Fin.getElem_fin, Vector.getElem_set, Fin.ext_iff]
  by_cases hx : (wrapX x).val = (wrapX x').val
  · by_cases hy : (wrapY y).val = (wrapY y').val
    · simp [hx, hy]
    · simp [hx, hy]
  · simp [hx]

/-- A cleared display has no lit cell (R151). -/
@[simp] theorem Display.cell_blank (x y : Int) : Display.blank.cell x y = false := by
  simp [Display.blank, Display.cell]

/-- Cells that wrap to the same place are the same cell (R150). -/
theorem Display.cell_congr (d : Display) {x x' y y' : Int} (hx : (x - x') % 64 = 0) (hy : (y - y') % 32 = 0) :
    d.cell x y = d.cell x' y' := by
  rw [← wrapX_eq_iff] at hx
  rw [← wrapY_eq_iff] at hy
  simp only [Display.cell, hx, hy]

/-- Whether the first `k` columns of a row put a set bit on cell `(x, y)`. -/
def rowBit (x0 y0 : Int) (r : Nat) (row : Byte) (k : Nat) (x y : Int) : Bool :=
  decide (((x - x0) % 64).toNat < k ∧ (y - (y0 + r)) % 32 = 0) && row.getLsbD (7 - ((x - x0) % 64).toNat)

/-- The columns of a row, one after the other: the cells, and the collisions, after the first `k`. -/
theorem compositeRow_spec (x0 y0 : Int) (r : Nat) (row : Byte) (acc : Display × Bool) : ∀ k : Nat, k ≤ 8 →
    (∀ x y, ((List.range k).foldl (compositeBit x0 y0 r row) acc).1.cell x y =
      (acc.1.cell x y ^^ rowBit x0 y0 r row k x y)) ∧
    (((List.range k).foldl (compositeBit x0 y0 r row) acc).2 = true ↔
      acc.2 = true ∨ ∃ c : Nat, c < k ∧ row.getLsbD (7 - c) = true ∧ acc.1.cell (x0 + c) (y0 + r) = true)
  | 0, _ => ⟨fun x y => by simp [rowBit], by simp⟩
  | k + 1, hk => by
    obtain ⟨hcell, hhit⟩ := compositeRow_spec x0 y0 r row acc k (by omega)
    have hkk : ((x0 + (k : Int) - x0) % 64).toNat = k := by omega
    have hfresh : rowBit x0 y0 r row k (x0 + k) (y0 + r) = false := by
      rw [rowBit, hkk]
      simp
    rw [List.range_succ, List.foldl_append]
    simp only [List.foldl_cons, List.foldl_nil]
    generalize (List.range k).foldl (compositeBit x0 y0 r row) acc = a at hcell hhit ⊢
    have hold : a.1.cell (x0 + k) (y0 + r) = acc.1.cell (x0 + k) (y0 + r) := by
      rw [hcell, hfresh, Bool.xor_false]
    unfold compositeBit
    split
    · rename_i hb
      refine ⟨fun x y => ?_, ?_⟩
      · rw [Display.cell_put]
        split
        · rename_i hxy
          have h1 : ((x - x0) % 64).toNat = k := by omega
          have h2 : (y - (y0 + r)) % 32 = 0 := by omega
          rw [hold, Display.cell_congr acc.1 hxy.1 hxy.2]
          simp [rowBit, h1, h2, hb]
        · rename_i hxy
          rw [hcell]
          have : rowBit x0 y0 r row (k + 1) x y = rowBit x0 y0 r row k x y := by
            unfold rowBit
            congr 2
            rw [eq_iff_iff]
            omega
          rw [this]
      · rw [Bool.or_eq_true, hhit, hold]
        constructor
        · rintro ((h | ⟨c, hc, h1, h2⟩) | h)
          · exact .inl h
          · exact .inr ⟨c, by omega, h1, h2⟩
          · exact .inr ⟨k, by omega, hb, h⟩
        · rintro (h | ⟨c, hc, h1, h2⟩)
          · exact .inl (.inl h)
          · by_cases hck : c = k
            · subst hck; exact .inr h2
            · exact .inl (.inr ⟨c, by omega, h1, h2⟩)
    · rename_i hb
      refine ⟨fun x y => ?_, ?_⟩
      · rw [hcell]
        congr 1
        unfold rowBit
        by_cases hx : ((x - x0) % 64).toNat = k
        · rw [hx]
          simp [hb]
        · congr 2
          rw [eq_iff_iff]
          omega
      · rw [hhit]
        constructor
        · rintro (h | ⟨c, hc, h1, h2⟩)
          · exact .inl h
          · exact .inr ⟨c, by omega, h1, h2⟩
        · rintro (h | ⟨c, hc, h1, h2⟩)
          · exact .inl h
          · by_cases hck : c = k
            · subst hck; exact absurd h1 hb
            · exact .inr ⟨c, by omega, h1, h2⟩

/-- Whether the rows of a sprite, the first of them number `r`, put a set bit on cell `(x, y)`. -/
def rowsBit (x0 y0 : Int) (r : Nat) (rows : List Byte) (x y : Int) : Bool :=
  decide (((x - x0) % 64).toNat < 8 ∧ r ≤ ((y - y0) % 32).toNat) &&
    (rows.getD (((y - y0) % 32).toNat - r) 0).getLsbD (7 - ((x - x0) % 64).toNat)

/-- The rows of a sprite, one after the other, when no two of them fall on one display row. -/
theorem compositeRows_spec (x0 y0 : Int) : ∀ (rows : List Byte) (r : Nat) (acc : Display × Bool),
    r + rows.length ≤ 32 →
    (∀ x y, (compositeRows x0 y0 r rows acc).1.cell x y = (acc.1.cell x y ^^ rowsBit x0 y0 r rows x y)) ∧
    ((compositeRows x0 y0 r rows acc).2 = true ↔
      acc.2 = true ∨ ∃ j c : Nat, j < rows.length ∧ c < 8 ∧ (rows.getD j 0).getLsbD (7 - c) = true ∧
        acc.1.cell (x0 + c) (y0 + (r + j : Nat)) = true)
  | [], r, acc, _ => ⟨fun x y => by simp [compositeRows, rowsBit], by simp [compositeRows]⟩
  | row :: rows, r, acc, h => by
    rw [List.length_cons] at h
    obtain ⟨hcell, hhit⟩ := compositeRow_spec x0 y0 r row acc 8 (Nat.le_refl 8)
    change (∀ x y, (compositeRow x0 y0 r row acc).1.cell x y = _) at hcell
    change (compositeRow x0 y0 r row acc).2 = true ↔ _ at hhit
    obtain ⟨icell, ihit⟩ := compositeRows_spec x0 y0 rows (r + 1) (compositeRow x0 y0 r row acc) (by omega)
    rw [compositeRows]
    refine ⟨fun x y => ?_, ?_⟩
    · rw [icell, hcell, Bool.xor_assoc]
      congr 1
      by_cases hr : ((y - y0) % 32).toNat = r
      · have h0 : (y - (y0 + r)) % 32 = 0 := by omega
        simp [rowBit, rowsBit, hr, h0]
      · have h0 : (y - (y0 + r)) % 32 ≠ 0 := by omega
        by_cases hlt : r + 1 ≤ ((y - y0) % 32).toNat
        · have h1 : ((y - y0) % 32).toNat - r = (((y - y0) % 32).toNat - (r + 1)) + 1 := by omega
          have h2 : r ≤ ((y - y0) % 32).toNat := by omega
          simp [rowBit, rowsBit, h0, h1, h2, hlt]
        · have h2 : ¬ r ≤ ((y - y0) % 32).toNat := by omega
          simp [rowBit, rowsBit, h0, hlt, h2]
    · rw [ihit, hhit]
      have hclean : ∀ j c : Nat, j < rows.length →
          (compositeRow x0 y0 r row acc).1.cell (x0 + c) (y0 + (r + 1 + j : Nat)) =
            acc.1.cell (x0 + c) (y0 + (r + 1 + j : Nat)) := by
        intro j c hj
        have h0 : (y0 + ((r + 1 + j : Nat) : Int) - (y0 + r)) % 32 ≠ 0 := by omega
        rw [hcell]
        simp only [rowBit, h0, and_false, decide_false, Bool.false_and, Bool.xor_false]
      constructor
      · rintro ((h | ⟨c, hc, h1, h2⟩) | ⟨j, c, hj, hc, h1, h2⟩)
        · exact .inl h
        · exact .inr ⟨0, c, by simp, hc, by simpa using h1, by simpa using h2⟩
        · rw [hclean j c hj] at h2
          refine .inr ⟨j + 1, c, by simpa using hj, hc, by simpa using h1, ?_⟩
          rw [show r + (j + 1) = r + 1 + j by omega]
          exact h2
      · rintro (h | ⟨j, c, hj, hc, h1, h2⟩)
        · exact .inl (.inl h)
        · cases j with
          | zero => exact .inl (.inr ⟨c, hc, by simpa using h1, by simpa using h2⟩)
          | succ j =>
            have hj' : j < rows.length := by simpa using hj
            refine .inr ⟨j, c, hj', hc, by simpa using h1, ?_⟩
            rw [hclean j c hj', show r + 1 + j = r + (j + 1) by omega]
            exact h2

/-- A sprite of at most 32 rows toggles the cells under its set bits and no other (R152). -/
theorem Display.composite_cell (d : Display) (x0 y0 : Int) (rows : List Byte) (h : rows.length ≤ 32) (x y : Int) :
    (d.composite x0 y0 rows).1.cell x y = (d.cell x y ^^ spriteBit x0 y0 rows x y) := by
  rw [Display.composite, (compositeRows_spec x0 y0 rows 0 (d, false) (by omega)).1]
  simp [rowsBit, spriteBit]

/-- It reports a collision exactly when a set bit is on a lit cell (R152). -/
theorem Display.composite_hit (d : Display) (x0 y0 : Int) (rows : List Byte) (h : rows.length ≤ 32) :
    (d.composite x0 y0 rows).2 = true ↔ ∃ x y, spriteBit x0 y0 rows x y = true ∧ d.cell x y = true := by
  rw [Display.composite, (compositeRows_spec x0 y0 rows 0 (d, false) (by omega)).2]
  constructor
  · rintro (h | ⟨j, c, hj, hc, h1, h2⟩)
    · cases h
    · refine ⟨x0 + c, y0 + j, ?_, by simpa using h2⟩
      have e1 : ((x0 + (c : Int) - x0) % 64).toNat = c := by omega
      have e2 : ((y0 + (j : Int) - y0) % 32).toNat = j := by omega
      simp only [spriteBit, e1, e2, hc, decide_true, Bool.true_and]
      exact h1
  · rintro ⟨x, y, h1, h2⟩
    simp only [spriteBit, Bool.and_eq_true, decide_eq_true_eq] at h1
    have hj : ((y - y0) % 32).toNat < rows.length := by
      by_contra hge
      rw [List.getD_eq_default _ _ (by omega)] at h1
      simp at h1
    refine .inr ⟨((y - y0) % 32).toNat, ((x - x0) % 64).toNat, hj, h1.1, h1.2, ?_⟩
    rw [← h2]
    exact Display.cell_congr d (by omega) (by omega)

end Sys2Proof.Machine
end

