-- ==== Sys2Proof/Laws/Memory.lean ====
section
/-! SUPPORT. The laws of memory: reading after a write, that every memory operation keeps the canonical form, and what
each bounds-checked access can answer. -/

namespace Sys2Proof.Machine

@[simp] theorem memSize_eq : Config.memSize = 4096 := rfl

@[simp] theorem startAddr_toNat : Config.startAddr.toNat = 512 := rfl

theorem Memory.wfFrom_cons (low a : Nat) (v : Byte) (m : Memory) :
    Memory.wfFrom low ((a, v) :: m) = true ↔
      low ≤ a ∧ a < 4096 ∧ v ≠ resetByte a ∧ Memory.wfFrom (a + 1) m = true := by
  simp only [Memory.wfFrom, Bool.and_eq_true, decide_eq_true_eq, and_assoc]

theorem Memory.wfFrom_mono {low low' : Nat} (h : low' ≤ low) :
    ∀ {m : Memory}, Memory.wfFrom low m = true → Memory.wfFrom low' m = true
  | [], _ => rfl
  | (a, v) :: m, hm => by
    rw [Memory.wfFrom_cons] at hm ⊢
    exact ⟨h.trans hm.1, hm.2⟩

/-- An address below every listed one reads as the reset image. -/
theorem Memory.read_below : ∀ {m : Memory} {low a : Nat}, Memory.wfFrom low m = true → a < low →
    m.read a = resetByte a
  | [], _, _, _, _ => rfl
  | (b, v) :: m, low, a, hm, ha => by
    rw [Memory.wfFrom_cons] at hm
    have hab : a ≠ b := by omega
    simp only [Memory.read, if_neg hab]
    exact Memory.read_below hm.2.2.2 (by omega)

/-- Reading after a write: the byte written, or as before. -/
theorem Memory.read_write_from : ∀ {m : Memory} {low : Nat} (a : Nat) (v : Byte) (b : Nat),
    Memory.wfFrom low m = true → (m.write a v).read b = if b = a then v else m.read b
  | [], _, a, v, b, _ => by
    by_cases hv : v = resetByte a <;> by_cases hb : b = a <;> simp [Memory.write, Memory.read, hv, hb]
  | (c, w) :: m, low, a, v, b, hm => by
    have hm' := (Memory.wfFrom_cons low c w m).mp hm
    have ih := Memory.read_write_from a v b hm'.2.2.2
    unfold Memory.write
    split
    · rename_i hac
      split
      · rename_i hv
        split
        · rename_i hb
          rw [hb, hv, Memory.read_below (Memory.wfFrom_mono (Nat.le_refl _) ((Memory.wfFrom_cons c c w m).mpr
            ⟨Nat.le_refl _, hm'.2⟩)) hac]
        · rfl
      · rfl
    · split
      · rename_i _ hac
        subst hac
        split
        · rename_i hv
          by_cases hb : b = a
          · subst hb
            rw [Memory.read_below hm'.2.2.2 (Nat.lt_succ_self _), if_pos rfl, hv]
          · simp [Memory.read, hb]
        · by_cases hb : b = a <;> simp [Memory.read, hb]
      · rename_i _ hac
        by_cases hbc : b = c
        · have hba : b ≠ a := by omega
          simp [Memory.read, hbc]
          intro h; omega
        · simp only [Memory.read, if_neg hbc, ih]

/-- Reading after a write: the byte written, or as before. -/
theorem Memory.read_write {m : Memory} (hm : m.wf = true) (a : Nat) (v : Byte) (b : Nat) :
    (m.write a v).read b = if b = a then v else m.read b := Memory.read_write_from a v b hm

theorem Memory.wfFrom_write : ∀ {m : Memory} {low a : Nat} {v : Byte}, Memory.wfFrom low m = true → low ≤ a →
    a < 4096 → Memory.wfFrom low (m.write a v) = true
  | [], low, a, v, _, hl, ha => by
    unfold Memory.write
    split
    · rfl
    · rename_i hv
      exact (Memory.wfFrom_cons low a v []).mpr ⟨hl, ha, hv, rfl⟩
  | (c, w) :: m, low, a, v, hm, hl, ha => by
    have hm' := (Memory.wfFrom_cons low c w m).mp hm
    unfold Memory.write
    split
    · split
      · exact hm
      · rename_i hac hv
        exact (Memory.wfFrom_cons _ _ _ _).mpr
          ⟨hl, ha, hv, (Memory.wfFrom_cons _ _ _ _).mpr ⟨hac, hm'.2⟩⟩
    · split
      · rename_i _ hac
        subst hac
        split
        · exact Memory.wfFrom_mono (by omega) hm'.2.2.2
        · rename_i hv
          exact (Memory.wfFrom_cons _ _ _ _).mpr ⟨hl, ha, hv, hm'.2.2.2⟩
      · rename_i h1 h2
        exact (Memory.wfFrom_cons _ _ _ _).mpr
          ⟨hm'.1, hm'.2.1, hm'.2.2.1, Memory.wfFrom_write hm'.2.2.2 (by omega) ha⟩

/-- A write inside the address space keeps the canonical form. -/
theorem Memory.wf_write {m : Memory} (hm : m.wf = true) {a : Nat} (ha : a < 4096) (v : Byte) :
    (m.write a v).wf = true := Memory.wfFrom_write hm (Nat.zero_le _) ha

/-- A run of writes inside the address space keeps the canonical form. -/
theorem Memory.wf_writeList : ∀ (vs : List Byte) {m : Memory} {a : Nat}, m.wf = true → a + vs.length ≤ 4096 →
    (m.writeList a vs).wf = true
  | [], _, _, hm, _ => hm
  | v :: vs, _, _, hm, h => by
    rw [List.length_cons] at h
    exact Memory.wf_writeList vs (Memory.wf_write hm (by omega) v) (by omega)

/-- Reading after a run of writes: a byte of the run, or as before. -/
theorem Memory.read_writeList : ∀ (vs : List Byte) {m : Memory} {a : Nat} (b : Nat), m.wf = true →
    a + vs.length ≤ 4096 →
    (m.writeList a vs).read b = if a ≤ b ∧ b < a + vs.length then vs.getD (b - a) 0 else m.read b
  | [], m, a, b, _, _ => by
    rw [if_neg (by simp)]
    rfl
  | v :: vs, m, a, b, hm, h => by
    rw [List.length_cons] at h
    rw [Memory.writeList, Memory.read_writeList vs b (Memory.wf_write hm (by omega) v) (by omega),
      Memory.read_write hm, List.length_cons]
    by_cases hb : b = a
    · subst hb
      rw [if_neg (by omega), if_pos rfl, if_pos (by omega), Nat.sub_self]
      rfl
    · rw [if_neg hb]
      by_cases hr : a + 1 ≤ b ∧ b < a + 1 + vs.length
      · rw [if_pos hr, if_pos (by omega), show b - a = (b - (a + 1)) + 1 by omega]
        rfl
      · rw [if_neg hr, if_neg (by omega)]

/-- The default reset image, byte by byte. -/
theorem resetByte_eq (a : Nat) : resetByte a = if a < 80 then fontTable.getD a 0 else 0 := by
  simp only [resetByte, resetByteWith, fontBase, Nat.zero_le, if_true, Nat.sub_zero]
  change fontTable.getD a 0 = _
  split
  · rfl
  · rw [List.getD_eq_default]
    simp [fontTable]
    omega

/-- In the block as the spec builds it, the memory right after reset lists nothing. -/
@[simp] theorem resetMemory_default : resetMemory fontBase defaultFont = [] := by decide

/-- The memory right after reset is in canonical form, whatever the font. -/
theorem Memory.wf_resetMemory {base : Nat} (h : base + 80 ≤ 4096) (font : Config.FontTable) :
    (resetMemory base font).wf = true :=
  Memory.wf_writeList _ (Memory.wf_writeList _ rfl (by simp)) (by simpa using h)

/-- The memory right after reset reads as the reset image of its font (R57). -/
theorem Memory.read_resetMemory {base : Nat} (h : base + 80 ≤ 4096) (font : Config.FontTable) (a : Nat) :
    (resetMemory base font).read a = resetByteWith base font a := by
  rw [resetMemory, Memory.read_writeList _ _ (Memory.wf_writeList _ rfl (by simp)) (by simpa using h),
    Memory.read_writeList _ _ rfl (by simp)]
  simp only [Vector.length_toList, List.length_replicate, Nat.zero_le, true_and, Nat.zero_add, Nat.sub_zero,
    resetByteWith]
  by_cases hb : base ≤ a
  · rw [if_pos hb]
    by_cases ha : a < base + 80
    · rw [if_pos ⟨hb, ha⟩]
    · rw [if_neg (by omega), if_neg (by omega), List.getD_eq_default _ _ (by simp; omega), Memory.read, resetByte_eq,
        if_neg (by omega)]
  · rw [if_neg hb, if_neg (by omega)]
    by_cases ha : a < min base 80
    · rw [if_pos ha, List.getD_eq_getElem _ _ (by simpa using ha), List.getElem_replicate]
    · rw [if_neg ha, Memory.read, resetByte_eq, if_neg (by omega)]

/-- Reset memory lists nothing and is in canonical form. -/
theorem Memory.wf_reset : State.reset.mem.wf = true := rfl

@[simp] theorem Memory.readList_length (m : Memory) : ∀ (n a : Nat), (m.readList a n).length = n
  | 0, _ => rfl
  | n + 1, a => by simp [Memory.readList, Memory.readList_length m n (a + 1)]

/-- The bytes read are the bytes of memory in ascending address order (R53). -/
theorem Memory.readList_eq_map (m : Memory) : ∀ (n a : Nat),
    m.readList a n = (List.range n).map fun i => m.read (a + i)
  | 0, _ => rfl
  | n + 1, a => by
    rw [Memory.readList, Memory.readList_eq_map m n (a + 1), List.range_succ_eq_map, List.map_cons, List.map_map]
    refine congrArg₂ _ (by simp) (List.map_congr_left fun i _ => ?_)
    simp only [Function.comp, Nat.succ_eq_add_one]
    congr 1
    omega

/-- The bounds check passes exactly when every byte of the access is inside the address space (R52). -/
theorem firstOut_eq_none {a n : Nat} : firstOut a n = none ↔ n = 0 ∨ a + n ≤ 4096 := by
  unfold firstOut
  split <;> simp_all

/-- Where it fails, it names the lowest address of the access that is out of range (R52). -/
theorem firstOut_eq_some {a n b : Nat} :
    firstOut a n = some b ↔ n ≠ 0 ∧ 4096 < a + n ∧ b = max a 4096 := by
  unfold firstOut
  split <;> rename_i h
  · simp only [memSize_eq] at h
    constructor
    · intro h'; cases h'
    · omega
  · simp only [memSize_eq, not_or, Nat.not_le] at h
    simp only [memSize_eq, Option.some.injEq]
    exact ⟨fun e => ⟨h.1, h.2, e.symm⟩, fun e => e.2.2.symm⟩

/-- A checked read answers the bytes, or the lowest address out of range (R12). -/
theorem memReadBytes_eq (m : Memory) (a n : Nat) :
    memReadBytes m a n =
      if n = 0 ∨ a + n ≤ 4096 then .ok (m.readList a n) else .error (.memoryOutOfRange (max a 4096)) := by
  unfold memReadBytes firstOut
  by_cases h : n = 0 ∨ a + n ≤ 4096 <;> simp [h]

/-- A checked fetch answers the big-endian pair, or the lowest address out of range (R101, R102). -/
theorem memReadPair_eq (m : Memory) (a : Nat) :
    memReadPair m a =
      if a + 2 ≤ 4096 then .ok (bigEndian (m.read a) (m.read (a + 1)))
      else .error (.memoryOutOfRange (max a 4096)) := by
  unfold memReadPair firstOut
  by_cases h : a + 2 ≤ 4096 <;> simp [h]

/-- A checked store writes every byte or none (R12, R52). -/
theorem memWriteBytes_eq (m : Memory) (a : Nat) (vs : List Byte) :
    memWriteBytes m a vs =
      if vs.length = 0 ∨ a + vs.length ≤ 4096 then .ok (m.writeList a vs)
      else .error (.memoryOutOfRange (max a 4096)) := by
  unfold memWriteBytes firstOut
  by_cases h : vs.length = 0 ∨ a + vs.length ≤ 4096
  · rw [if_pos (by simpa using h), if_pos h]
  · rw [if_neg (by simpa using h), if_neg h, memSize_eq]

end Sys2Proof.Machine
end

