-- ==== Sys2Proof/Laws/State.lean ====
section
/-! SUPPORT. One lemma per field per update of the state, each true by definition, so that no later proof unfolds a
record update; and what reading a register answers after an update. -/

namespace Sys2Proof.Machine

variable (s : State)

@[simp] theorem State.setReg_V (x : Reg) (v : Byte) : (s.setReg x v).V = s.V.set x v := rfl
@[simp] theorem State.setReg_I (x : Reg) (v : Byte) : (s.setReg x v).I = s.I := rfl
@[simp] theorem State.setReg_pc (x : Reg) (v : Byte) : (s.setReg x v).pc = s.pc := rfl
@[simp] theorem State.setReg_sp (x : Reg) (v : Byte) : (s.setReg x v).sp = s.sp := rfl
@[simp] theorem State.setReg_stack (x : Reg) (v : Byte) : (s.setReg x v).stack = s.stack := rfl
@[simp] theorem State.setReg_DT (x : Reg) (v : Byte) : (s.setReg x v).DT = s.DT := rfl
@[simp] theorem State.setReg_ST (x : Reg) (v : Byte) : (s.setReg x v).ST = s.ST := rfl
@[simp] theorem State.setReg_key (x : Reg) (v : Byte) : (s.setReg x v).key = s.key := rfl
@[simp] theorem State.setReg_latch (x : Reg) (v : Byte) : (s.setReg x v).latch = s.latch := rfl
@[simp] theorem State.setReg_pix (x : Reg) (v : Byte) : (s.setReg x v).pix = s.pix := rfl
@[simp] theorem State.setReg_mem (x : Reg) (v : Byte) : (s.setReg x v).mem = s.mem := rfl
@[simp] theorem State.setReg_fault (x : Reg) (v : Byte) : (s.setReg x v).fault = s.fault := rfl
@[simp] theorem State.setReg_run (x : Reg) (v : Byte) : (s.setReg x v).run = s.run := rfl
@[simp] theorem State.setReg_draws (x : Reg) (v : Byte) : (s.setReg x v).draws = s.draws := rfl
@[simp] theorem State.setReg_warnings (x : Reg) (v : Byte) : (s.setReg x v).warnings = s.warnings := rfl
@[simp] theorem State.setReg_npc (x : Reg) (v : Byte) : (s.setReg x v).npc = s.npc := rfl

@[simp] theorem State.setFlag_V (v : Byte) : (s.setFlag v).V = s.V.set vF v := rfl
@[simp] theorem State.setFlag_I (v : Byte) : (s.setFlag v).I = s.I := rfl
@[simp] theorem State.setFlag_pc (v : Byte) : (s.setFlag v).pc = s.pc := rfl
@[simp] theorem State.setFlag_sp (v : Byte) : (s.setFlag v).sp = s.sp := rfl
@[simp] theorem State.setFlag_stack (v : Byte) : (s.setFlag v).stack = s.stack := rfl
@[simp] theorem State.setFlag_DT (v : Byte) : (s.setFlag v).DT = s.DT := rfl
@[simp] theorem State.setFlag_ST (v : Byte) : (s.setFlag v).ST = s.ST := rfl
@[simp] theorem State.setFlag_key (v : Byte) : (s.setFlag v).key = s.key := rfl
@[simp] theorem State.setFlag_latch (v : Byte) : (s.setFlag v).latch = s.latch := rfl
@[simp] theorem State.setFlag_pix (v : Byte) : (s.setFlag v).pix = s.pix := rfl
@[simp] theorem State.setFlag_mem (v : Byte) : (s.setFlag v).mem = s.mem := rfl
@[simp] theorem State.setFlag_fault (v : Byte) : (s.setFlag v).fault = s.fault := rfl
@[simp] theorem State.setFlag_run (v : Byte) : (s.setFlag v).run = s.run := rfl
@[simp] theorem State.setFlag_draws (v : Byte) : (s.setFlag v).draws = s.draws := rfl
@[simp] theorem State.setFlag_warnings (v : Byte) : (s.setFlag v).warnings = s.warnings := rfl
@[simp] theorem State.setFlag_npc (v : Byte) : (s.setFlag v).npc = s.npc := rfl

@[simp] theorem State.setPc_V (a : Word) : (s.setPc a).V = s.V := rfl
@[simp] theorem State.setPc_I (a : Word) : (s.setPc a).I = s.I := rfl
@[simp] theorem State.setPc_pc (a : Word) : (s.setPc a).pc = a := rfl
@[simp] theorem State.setPc_sp (a : Word) : (s.setPc a).sp = s.sp := rfl
@[simp] theorem State.setPc_stack (a : Word) : (s.setPc a).stack = s.stack := rfl
@[simp] theorem State.setPc_DT (a : Word) : (s.setPc a).DT = s.DT := rfl
@[simp] theorem State.setPc_ST (a : Word) : (s.setPc a).ST = s.ST := rfl
@[simp] theorem State.setPc_key (a : Word) : (s.setPc a).key = s.key := rfl
@[simp] theorem State.setPc_latch (a : Word) : (s.setPc a).latch = s.latch := rfl
@[simp] theorem State.setPc_pix (a : Word) : (s.setPc a).pix = s.pix := rfl
@[simp] theorem State.setPc_mem (a : Word) : (s.setPc a).mem = s.mem := rfl
@[simp] theorem State.setPc_fault (a : Word) : (s.setPc a).fault = s.fault := rfl
@[simp] theorem State.setPc_run (a : Word) : (s.setPc a).run = s.run := rfl
@[simp] theorem State.setPc_draws (a : Word) : (s.setPc a).draws = s.draws := rfl
@[simp] theorem State.setPc_warnings (a : Word) : (s.setPc a).warnings = s.warnings := rfl
@[simp] theorem State.setPc_reg (a : Word) (r : Reg) : (s.setPc a).reg r = s.reg r := rfl

@[simp] theorem State.advance_V : (s.advance).V = s.V := rfl
@[simp] theorem State.advance_I : (s.advance).I = s.I := rfl
@[simp] theorem State.advance_pc : (s.advance).pc = s.npc := rfl
@[simp] theorem State.advance_sp : (s.advance).sp = s.sp := rfl
@[simp] theorem State.advance_stack : (s.advance).stack = s.stack := rfl
@[simp] theorem State.advance_DT : (s.advance).DT = s.DT := rfl
@[simp] theorem State.advance_ST : (s.advance).ST = s.ST := rfl
@[simp] theorem State.advance_key : (s.advance).key = s.key := rfl
@[simp] theorem State.advance_latch : (s.advance).latch = s.latch := rfl
@[simp] theorem State.advance_pix : (s.advance).pix = s.pix := rfl
@[simp] theorem State.advance_mem : (s.advance).mem = s.mem := rfl
@[simp] theorem State.advance_fault : (s.advance).fault = s.fault := rfl
@[simp] theorem State.advance_run : (s.advance).run = s.run := rfl
@[simp] theorem State.advance_draws : (s.advance).draws = s.draws := rfl
@[simp] theorem State.advance_warnings : (s.advance).warnings = s.warnings := rfl
@[simp] theorem State.advance_reg (r : Reg) : (s.advance).reg r = s.reg r := rfl

@[simp] theorem State.setI_V (v : Word) : (s.setI v).V = s.V := rfl
@[simp] theorem State.setI_I (v : Word) : (s.setI v).I = v := rfl
@[simp] theorem State.setI_pc (v : Word) : (s.setI v).pc = s.pc := rfl
@[simp] theorem State.setI_sp (v : Word) : (s.setI v).sp = s.sp := rfl
@[simp] theorem State.setI_stack (v : Word) : (s.setI v).stack = s.stack := rfl
@[simp] theorem State.setI_DT (v : Word) : (s.setI v).DT = s.DT := rfl
@[simp] theorem State.setI_ST (v : Word) : (s.setI v).ST = s.ST := rfl
@[simp] theorem State.setI_key (v : Word) : (s.setI v).key = s.key := rfl
@[simp] theorem State.setI_latch (v : Word) : (s.setI v).latch = s.latch := rfl
@[simp] theorem State.setI_pix (v : Word) : (s.setI v).pix = s.pix := rfl
@[simp] theorem State.setI_mem (v : Word) : (s.setI v).mem = s.mem := rfl
@[simp] theorem State.setI_fault (v : Word) : (s.setI v).fault = s.fault := rfl
@[simp] theorem State.setI_run (v : Word) : (s.setI v).run = s.run := rfl
@[simp] theorem State.setI_draws (v : Word) : (s.setI v).draws = s.draws := rfl
@[simp] theorem State.setI_warnings (v : Word) : (s.setI v).warnings = s.warnings := rfl
@[simp] theorem State.setI_reg (v : Word) (r : Reg) : (s.setI v).reg r = s.reg r := rfl
@[simp] theorem State.setI_npc (v : Word) : (s.setI v).npc = s.npc := rfl

@[simp] theorem State.setDT_V (v : Byte) : (s.setDT v).V = s.V := rfl
@[simp] theorem State.setDT_I (v : Byte) : (s.setDT v).I = s.I := rfl
@[simp] theorem State.setDT_pc (v : Byte) : (s.setDT v).pc = s.pc := rfl
@[simp] theorem State.setDT_sp (v : Byte) : (s.setDT v).sp = s.sp := rfl
@[simp] theorem State.setDT_stack (v : Byte) : (s.setDT v).stack = s.stack := rfl
@[simp] theorem State.setDT_DT (v : Byte) : (s.setDT v).DT = v := rfl
@[simp] theorem State.setDT_ST (v : Byte) : (s.setDT v).ST = s.ST := rfl
@[simp] theorem State.setDT_key (v : Byte) : (s.setDT v).key = s.key := rfl
@[simp] theorem State.setDT_latch (v : Byte) : (s.setDT v).latch = s.latch := rfl
@[simp] theorem State.setDT_pix (v : Byte) : (s.setDT v).pix = s.pix := rfl
@[simp] theorem State.setDT_mem (v : Byte) : (s.setDT v).mem = s.mem := rfl
@[simp] theorem State.setDT_fault (v : Byte) : (s.setDT v).fault = s.fault := rfl
@[simp] theorem State.setDT_run (v : Byte) : (s.setDT v).run = s.run := rfl
@[simp] theorem State.setDT_draws (v : Byte) : (s.setDT v).draws = s.draws := rfl
@[simp] theorem State.setDT_warnings (v : Byte) : (s.setDT v).warnings = s.warnings := rfl
@[simp] theorem State.setDT_reg (v : Byte) (r : Reg) : (s.setDT v).reg r = s.reg r := rfl
@[simp] theorem State.setDT_npc (v : Byte) : (s.setDT v).npc = s.npc := rfl

@[simp] theorem State.setST_V (v : Byte) : (s.setST v).V = s.V := rfl
@[simp] theorem State.setST_I (v : Byte) : (s.setST v).I = s.I := rfl
@[simp] theorem State.setST_pc (v : Byte) : (s.setST v).pc = s.pc := rfl
@[simp] theorem State.setST_sp (v : Byte) : (s.setST v).sp = s.sp := rfl
@[simp] theorem State.setST_stack (v : Byte) : (s.setST v).stack = s.stack := rfl
@[simp] theorem State.setST_DT (v : Byte) : (s.setST v).DT = s.DT := rfl
@[simp] theorem State.setST_ST (v : Byte) : (s.setST v).ST = v := rfl
@[simp] theorem State.setST_key (v : Byte) : (s.setST v).key = s.key := rfl
@[simp] theorem State.setST_latch (v : Byte) : (s.setST v).latch = s.latch := rfl
@[simp] theorem State.setST_pix (v : Byte) : (s.setST v).pix = s.pix := rfl
@[simp] theorem State.setST_mem (v : Byte) : (s.setST v).mem = s.mem := rfl
@[simp] theorem State.setST_fault (v : Byte) : (s.setST v).fault = s.fault := rfl
@[simp] theorem State.setST_run (v : Byte) : (s.setST v).run = s.run := rfl
@[simp] theorem State.setST_draws (v : Byte) : (s.setST v).draws = s.draws := rfl
@[simp] theorem State.setST_warnings (v : Byte) : (s.setST v).warnings = s.warnings := rfl
@[simp] theorem State.setST_reg (v : Byte) (r : Reg) : (s.setST v).reg r = s.reg r := rfl
@[simp] theorem State.setST_npc (v : Byte) : (s.setST v).npc = s.npc := rfl

@[simp] theorem State.setLatch_V (l : Option (Fin 16)) : (s.setLatch l).V = s.V := rfl
@[simp] theorem State.setLatch_I (l : Option (Fin 16)) : (s.setLatch l).I = s.I := rfl
@[simp] theorem State.setLatch_pc (l : Option (Fin 16)) : (s.setLatch l).pc = s.pc := rfl
@[simp] theorem State.setLatch_sp (l : Option (Fin 16)) : (s.setLatch l).sp = s.sp := rfl
@[simp] theorem State.setLatch_stack (l : Option (Fin 16)) : (s.setLatch l).stack = s.stack := rfl
@[simp] theorem State.setLatch_DT (l : Option (Fin 16)) : (s.setLatch l).DT = s.DT := rfl
@[simp] theorem State.setLatch_ST (l : Option (Fin 16)) : (s.setLatch l).ST = s.ST := rfl
@[simp] theorem State.setLatch_key (l : Option (Fin 16)) : (s.setLatch l).key = s.key := rfl
@[simp] theorem State.setLatch_latch (l : Option (Fin 16)) : (s.setLatch l).latch = l := rfl
@[simp] theorem State.setLatch_pix (l : Option (Fin 16)) : (s.setLatch l).pix = s.pix := rfl
@[simp] theorem State.setLatch_mem (l : Option (Fin 16)) : (s.setLatch l).mem = s.mem := rfl
@[simp] theorem State.setLatch_fault (l : Option (Fin 16)) : (s.setLatch l).fault = s.fault := rfl
@[simp] theorem State.setLatch_run (l : Option (Fin 16)) : (s.setLatch l).run = s.run := rfl
@[simp] theorem State.setLatch_draws (l : Option (Fin 16)) : (s.setLatch l).draws = s.draws := rfl
@[simp] theorem State.setLatch_warnings (l : Option (Fin 16)) : (s.setLatch l).warnings = s.warnings := rfl
@[simp] theorem State.setLatch_reg (l : Option (Fin 16)) (r : Reg) : (s.setLatch l).reg r = s.reg r := rfl
@[simp] theorem State.setLatch_npc (l : Option (Fin 16)) : (s.setLatch l).npc = s.npc := rfl

@[simp] theorem State.setPix_V (d : Display) : (s.setPix d).V = s.V := rfl
@[simp] theorem State.setPix_I (d : Display) : (s.setPix d).I = s.I := rfl
@[simp] theorem State.setPix_pc (d : Display) : (s.setPix d).pc = s.pc := rfl
@[simp] theorem State.setPix_sp (d : Display) : (s.setPix d).sp = s.sp := rfl
@[simp] theorem State.setPix_stack (d : Display) : (s.setPix d).stack = s.stack := rfl
@[simp] theorem State.setPix_DT (d : Display) : (s.setPix d).DT = s.DT := rfl
@[simp] theorem State.setPix_ST (d : Display) : (s.setPix d).ST = s.ST := rfl
@[simp] theorem State.setPix_key (d : Display) : (s.setPix d).key = s.key := rfl
@[simp] theorem State.setPix_latch (d : Display) : (s.setPix d).latch = s.latch := rfl
@[simp] theorem State.setPix_pix (d : Display) : (s.setPix d).pix = d := rfl
@[simp] theorem State.setPix_mem (d : Display) : (s.setPix d).mem = s.mem := rfl
@[simp] theorem State.setPix_fault (d : Display) : (s.setPix d).fault = s.fault := rfl
@[simp] theorem State.setPix_run (d : Display) : (s.setPix d).run = s.run := rfl
@[simp] theorem State.setPix_draws (d : Display) : (s.setPix d).draws = s.draws := rfl
@[simp] theorem State.setPix_warnings (d : Display) : (s.setPix d).warnings = s.warnings := rfl
@[simp] theorem State.setPix_reg (d : Display) (r : Reg) : (s.setPix d).reg r = s.reg r := rfl
@[simp] theorem State.setPix_npc (d : Display) : (s.setPix d).npc = s.npc := rfl

@[simp] theorem State.setMem_V (m : Memory) : (s.setMem m).V = s.V := rfl
@[simp] theorem State.setMem_I (m : Memory) : (s.setMem m).I = s.I := rfl
@[simp] theorem State.setMem_pc (m : Memory) : (s.setMem m).pc = s.pc := rfl
@[simp] theorem State.setMem_sp (m : Memory) : (s.setMem m).sp = s.sp := rfl
@[simp] theorem State.setMem_stack (m : Memory) : (s.setMem m).stack = s.stack := rfl
@[simp] theorem State.setMem_DT (m : Memory) : (s.setMem m).DT = s.DT := rfl
@[simp] theorem State.setMem_ST (m : Memory) : (s.setMem m).ST = s.ST := rfl
@[simp] theorem State.setMem_key (m : Memory) : (s.setMem m).key = s.key := rfl
@[simp] theorem State.setMem_latch (m : Memory) : (s.setMem m).latch = s.latch := rfl
@[simp] theorem State.setMem_pix (m : Memory) : (s.setMem m).pix = s.pix := rfl
@[simp] theorem State.setMem_mem (m : Memory) : (s.setMem m).mem = m := rfl
@[simp] theorem State.setMem_fault (m : Memory) : (s.setMem m).fault = s.fault := rfl
@[simp] theorem State.setMem_run (m : Memory) : (s.setMem m).run = s.run := rfl
@[simp] theorem State.setMem_draws (m : Memory) : (s.setMem m).draws = s.draws := rfl
@[simp] theorem State.setMem_warnings (m : Memory) : (s.setMem m).warnings = s.warnings := rfl
@[simp] theorem State.setMem_reg (m : Memory) (r : Reg) : (s.setMem m).reg r = s.reg r := rfl
@[simp] theorem State.setMem_npc (m : Memory) : (s.setMem m).npc = s.npc := rfl

@[simp] theorem State.takeFault_V (c : FaultCause) : (s.takeFault c).V = s.V := rfl
@[simp] theorem State.takeFault_I (c : FaultCause) : (s.takeFault c).I = s.I := rfl
@[simp] theorem State.takeFault_pc (c : FaultCause) : (s.takeFault c).pc = s.pc := rfl
@[simp] theorem State.takeFault_sp (c : FaultCause) : (s.takeFault c).sp = s.sp := rfl
@[simp] theorem State.takeFault_stack (c : FaultCause) : (s.takeFault c).stack = s.stack := rfl
@[simp] theorem State.takeFault_DT (c : FaultCause) : (s.takeFault c).DT = s.DT := rfl
@[simp] theorem State.takeFault_ST (c : FaultCause) : (s.takeFault c).ST = s.ST := rfl
@[simp] theorem State.takeFault_key (c : FaultCause) : (s.takeFault c).key = s.key := rfl
@[simp] theorem State.takeFault_latch (c : FaultCause) : (s.takeFault c).latch = s.latch := rfl
@[simp] theorem State.takeFault_pix (c : FaultCause) : (s.takeFault c).pix = s.pix := rfl
@[simp] theorem State.takeFault_mem (c : FaultCause) : (s.takeFault c).mem = s.mem := rfl
@[simp] theorem State.takeFault_fault (c : FaultCause) : (s.takeFault c).fault = some ⟨c, s.pc⟩ := rfl
@[simp] theorem State.takeFault_run (c : FaultCause) : (s.takeFault c).run = s.run := rfl
@[simp] theorem State.takeFault_draws (c : FaultCause) : (s.takeFault c).draws = s.draws := rfl
@[simp] theorem State.takeFault_warnings (c : FaultCause) : (s.takeFault c).warnings = s.warnings := rfl
@[simp] theorem State.takeFault_reg (c : FaultCause) (r : Reg) : (s.takeFault c).reg r = s.reg r := rfl
@[simp] theorem State.takeFault_npc (c : FaultCause) : (s.takeFault c).npc = s.npc := rfl

@[simp] theorem State.countDraw_V : (s.countDraw).V = s.V := rfl
@[simp] theorem State.countDraw_I : (s.countDraw).I = s.I := rfl
@[simp] theorem State.countDraw_pc : (s.countDraw).pc = s.pc := rfl
@[simp] theorem State.countDraw_sp : (s.countDraw).sp = s.sp := rfl
@[simp] theorem State.countDraw_stack : (s.countDraw).stack = s.stack := rfl
@[simp] theorem State.countDraw_DT : (s.countDraw).DT = s.DT := rfl
@[simp] theorem State.countDraw_ST : (s.countDraw).ST = s.ST := rfl
@[simp] theorem State.countDraw_key : (s.countDraw).key = s.key := rfl
@[simp] theorem State.countDraw_latch : (s.countDraw).latch = s.latch := rfl
@[simp] theorem State.countDraw_pix : (s.countDraw).pix = s.pix := rfl
@[simp] theorem State.countDraw_mem : (s.countDraw).mem = s.mem := rfl
@[simp] theorem State.countDraw_fault : (s.countDraw).fault = s.fault := rfl
@[simp] theorem State.countDraw_run : (s.countDraw).run = s.run := rfl
@[simp] theorem State.countDraw_draws : (s.countDraw).draws = s.draws + 1 := rfl
@[simp] theorem State.countDraw_warnings : (s.countDraw).warnings = s.warnings := rfl
@[simp] theorem State.countDraw_reg (r : Reg) : (s.countDraw).reg r = s.reg r := rfl
@[simp] theorem State.countDraw_npc : (s.countDraw).npc = s.npc := rfl

@[simp] theorem State.warn_V (op : Word) : (s.warn op).V = s.V := rfl
@[simp] theorem State.warn_I (op : Word) : (s.warn op).I = s.I := rfl
@[simp] theorem State.warn_pc (op : Word) : (s.warn op).pc = s.pc := rfl
@[simp] theorem State.warn_sp (op : Word) : (s.warn op).sp = s.sp := rfl
@[simp] theorem State.warn_stack (op : Word) : (s.warn op).stack = s.stack := rfl
@[simp] theorem State.warn_DT (op : Word) : (s.warn op).DT = s.DT := rfl
@[simp] theorem State.warn_ST (op : Word) : (s.warn op).ST = s.ST := rfl
@[simp] theorem State.warn_key (op : Word) : (s.warn op).key = s.key := rfl
@[simp] theorem State.warn_latch (op : Word) : (s.warn op).latch = s.latch := rfl
@[simp] theorem State.warn_pix (op : Word) : (s.warn op).pix = s.pix := rfl
@[simp] theorem State.warn_mem (op : Word) : (s.warn op).mem = s.mem := rfl
@[simp] theorem State.warn_fault (op : Word) : (s.warn op).fault = s.fault := rfl
@[simp] theorem State.warn_run (op : Word) : (s.warn op).run = s.run := rfl
@[simp] theorem State.warn_draws (op : Word) : (s.warn op).draws = s.draws := rfl
@[simp] theorem State.warn_warnings (op : Word) : (s.warn op).warnings = s.warnings ++ [op] := rfl
@[simp] theorem State.warn_reg (op : Word) (r : Reg) : (s.warn op).reg r = s.reg r := rfl
@[simp] theorem State.warn_npc (op : Word) : (s.warn op).npc = s.npc := rfl

/-- Reading a register after a register write (R20): the one written, or as before. -/
@[simp] theorem State.setReg_reg (x : Reg) (v : Byte) (r : Reg) :
    (s.setReg x v).reg r = if r = x then v else s.reg r := by
  simp only [State.reg, State.setReg, Fin.getElem_fin, Vector.getElem_set, Fin.ext_iff, eq_comm]

/-- The flag register is register 15 and no other (R21). -/
@[simp] theorem State.setFlag_reg (v : Byte) (r : Reg) :
    (s.setFlag v).reg r = if r = vF then v else s.reg r := s.setReg_reg vF v r

/-- A conditional instruction moves pc and nothing else (R112). -/
theorem State.skipIf_eq (c : Bool) : s.skipIf c = s.setPc (if c then s.npc + 2 else s.npc) := by
  cases c <;> rfl

@[simp] theorem State.skipIf_V (c : Bool) : (s.skipIf c).V = s.V := by rw [State.skipIf_eq]; rfl
@[simp] theorem State.skipIf_I (c : Bool) : (s.skipIf c).I = s.I := by rw [State.skipIf_eq]; rfl
@[simp] theorem State.skipIf_sp (c : Bool) : (s.skipIf c).sp = s.sp := by rw [State.skipIf_eq]; rfl
@[simp] theorem State.skipIf_stack (c : Bool) : (s.skipIf c).stack = s.stack := by rw [State.skipIf_eq]; rfl
@[simp] theorem State.skipIf_DT (c : Bool) : (s.skipIf c).DT = s.DT := by rw [State.skipIf_eq]; rfl
@[simp] theorem State.skipIf_ST (c : Bool) : (s.skipIf c).ST = s.ST := by rw [State.skipIf_eq]; rfl
@[simp] theorem State.skipIf_key (c : Bool) : (s.skipIf c).key = s.key := by rw [State.skipIf_eq]; rfl
@[simp] theorem State.skipIf_latch (c : Bool) : (s.skipIf c).latch = s.latch := by rw [State.skipIf_eq]; rfl
@[simp] theorem State.skipIf_pix (c : Bool) : (s.skipIf c).pix = s.pix := by rw [State.skipIf_eq]; rfl
@[simp] theorem State.skipIf_mem (c : Bool) : (s.skipIf c).mem = s.mem := by rw [State.skipIf_eq]; rfl
@[simp] theorem State.skipIf_fault (c : Bool) : (s.skipIf c).fault = s.fault := by rw [State.skipIf_eq]; rfl
@[simp] theorem State.skipIf_run (c : Bool) : (s.skipIf c).run = s.run := by rw [State.skipIf_eq]; rfl
@[simp] theorem State.skipIf_draws (c : Bool) : (s.skipIf c).draws = s.draws := by rw [State.skipIf_eq]; rfl
@[simp] theorem State.skipIf_warnings (c : Bool) : (s.skipIf c).warnings = s.warnings := by rw [State.skipIf_eq]; rfl
@[simp] theorem State.skipIf_pc (c : Bool) : (s.skipIf c).pc = if c then s.npc + 2 else s.npc := by
  rw [State.skipIf_eq]; rfl
@[simp] theorem State.skipIf_reg (c : Bool) (r : Reg) : (s.skipIf c).reg r = s.reg r := by rw [State.skipIf_eq]; rfl

end Sys2Proof.Machine
end

