-- ==== Sys2Proof/Laws/Ops.lean ====
section
/-! SUPPORT. What each shared operation can do, said once: commit, push, pop, the key read, a run of register writes,
the registers as a list. -/

namespace Sys2Proof.Machine

/-- A cycle ends in a next state: all of the instruction's effects, or the fault its check found (R100). -/
theorem State.commit_eq (s : State) (r : Except FaultCause State) :
    s.commit r = .next (match r with | .ok t => t | .error c => s.takeFault c) := by
  cases r <;> rfl

/-- The block as the spec builds it meets what R7 asks of its parameters. -/
theorem specParams_legal : specParams.Legal := by
  simp [Config.Params.Legal, specParams, Config.cyclesPerFrame, fontBase]

@[simp] theorem specParams_fxExt : specParams.fxExt = true := rfl
@[simp] theorem specParams_latchPolicy : specParams.latchPolicy = .clearIfSame := rfl
@[simp] theorem specParams_cyclesPerFrame : specParams.cyclesPerFrame = Config.cyclesPerFrame := rfl
@[simp] theorem specParams_fontTable : specParams.fontTable = defaultFont := rfl
@[simp] theorem specParams_fontBase : specParams.fontBase = 0 := rfl

/-- Under the spec's FONT_BASE an instruction has the meaning `exec` gives it. -/
@[simp] theorem execIn_fontBase (i : Instr) (s : State) : execIn fontBase i s = exec i s := by
  cases i <;> rfl

/-- A cycle of the block as the spec builds it is a step. -/
@[simp] theorem stepIn_specParams (s : State) : stepIn specParams s = step s := by
  have h : execIn fontBase = exec := funext fun i => funext fun t => execIn_fontBase i t
  show cycle Config.fxExt (execIn fontBase) s = _
  rw [h, step]

/-- The host's reset of the block as the spec builds it: State.reset, but for what stands outside the block (R250). -/
@[simp] theorem hostResetIn_specParams (s : State) :
    hostResetIn specParams s = { State.reset with draws := s.draws, warnings := s.warnings } := by
  simp [hostResetIn, State.resetIn, specParams, State.reset]

/-- The block after construction, as the spec builds it (R251). -/
@[simp] theorem State.resetIn_specParams : State.resetIn specParams = State.reset := by
  simp [State.resetIn, specParams, State.reset]

/-- The host's reset of the block as the spec builds it (R250). -/
@[simp] theorem perform_reset (s : State) :
    perform .reset s = ({ State.reset with draws := s.draws, warnings := s.warnings }, .ok) := by
  rw [← hostResetIn_specParams]
  rfl

/-- `execute` as the host sees it, by the step it takes (R209, R211). -/
theorem executeIn_specParams (s : State) :
    executeIn specParams s =
      (match step s with
      | .next t => (t, match t.fault with | none => .ok | some r => .faulted r)
      | .fault (.faulted r) => (s, .faulted r)
      | .refused r => (s, .unmodelled r)) := by
  rw [executeIn, stepIn_specParams]
  cases step s with
  | next t => cases h : t.fault <;> simp [h]
  | fault r => rfl
  | refused r => rfl

/-- A cycle, and so a frame, does not depend on FONT_TABLE (R56). -/
theorem runCyclesIn_fontTable (p : Config.Params) (f : Config.FontTable) :
    ∀ (n : Nat) (s : State), runCyclesIn { p with fontTable := f } n s = runCyclesIn p n s
  | 0, _ => rfl
  | n + 1, s => by
    have h : executeIn { p with fontTable := f } s = executeIn p s := rfl
    simp only [runCyclesIn, h, runCyclesIn_fontTable p f n]

/-- No operation but reset and a ROM load depends on FONT_TABLE (R56). -/
theorem performIn_fontTable (p : Config.Params) (f : Config.FontTable) (op : HostOp) (s : State) (hr : op ≠ .reset)
    (hl : ∀ bytes, op ≠ .loadRom bytes) : performIn { p with fontTable := f } op s = performIn p op s := by
  cases op
  case reset => exact absurd rfl hr
  case loadRom bytes => exact absurd rfl (hl bytes)
  case runFrame n => simp only [performIn, runFrameIn, runCyclesIn_fontTable]
  all_goals rfl

/-- Raising a fault is a next state. -/
@[simp] theorem State.raise_eq (s : State) (c : FaultCause) : s.raise c = .next (s.takeFault c) := rfl

/-- A push writes the entry at sp and raises sp, or overflows when 16 entries are in use (R106). -/
theorem State.push_eq (s : State) (a : Word) :
    (s.sp = 16 ∧ s.push a = .error (.stackOverflow 16)) ∨
      ∃ h : s.sp.val < 16,
        s.push a = .ok { s with stack := s.stack.set s.sp.val a, sp := ⟨s.sp.val + 1, by omega⟩ } := by
  by_cases h : s.sp.val < 16
  · exact .inr ⟨h, by simp [State.push, h]⟩
  · have h16 : s.sp = 16 := Fin.ext (by have := s.sp.isLt; show s.sp.val = 16; omega)
    exact .inl ⟨h16, by simp [State.push, h16]⟩

/-- A pop lowers sp and moves the entry it uncovers into pc, or underflows when none is in use (R104). -/
theorem State.popPc_eq (s : State) :
    (s.sp = 0 ∧ s.popPc = .error (.stackUnderflow 0)) ∨
      ∃ _h : s.sp.val ≠ 0,
        s.popPc = .ok { s with
          pc := s.stack[s.sp.val - 1]'(by have := s.sp.isLt; omega), sp := ⟨s.sp.val - 1, by omega⟩ } := by
  by_cases h : s.sp.val = 0
  · have h0 : s.sp = 0 := Fin.ext h
    exact .inl ⟨h0, by simp [State.popPc, h0]⟩
  · exact .inr ⟨h, by simp [State.popPc, h]⟩

/-- The key read answers the key's state, or faults for a number of 16 or more (R160, R202). -/
theorem State.keyAt_eq (s : State) (k : Byte) :
    (∃ h : k.toNat < 16, s.keyAt k = .ok (s.key[k.toNat])) ∨
      (16 ≤ k.toNat ∧ s.keyAt k = .error (.keyOutOfRange k)) := by
  by_cases h : k.toNat < 16
  · exact .inl ⟨h, by simp [State.keyAt, h]⟩
  · exact .inr ⟨by omega, by simp [State.keyAt, h]⟩

/-- A run of register writes: a byte of the run, or as before. -/
theorem setRegs_getElem : ∀ (vs : List Byte) (V : Vector Byte 16) (i j : Nat) (hj : j < 16),
    (setRegs V i vs)[j] = if i ≤ j ∧ j < i + vs.length then vs.getD (j - i) 0 else V[j]
  | [], V, i, j, hj => by
    rw [if_neg (by simp)]
    rfl
  | v :: vs, V, i, j, hj => by
    rw [setRegs, setRegs_getElem vs (V.setIfInBounds i v) (i + 1) j hj, List.length_cons,
      Vector.getElem_setIfInBounds hj]
    by_cases h : j = i
    · subst h
      rw [if_neg (by omega), if_pos rfl, if_pos (by omega), Nat.sub_self]
      rfl
    · rw [if_neg (by omega : ¬ i = j)]
      by_cases hr : i + 1 ≤ j ∧ j < i + 1 + vs.length
      · rw [if_pos hr, if_pos (by omega), show j - i = (j - (i + 1)) + 1 by omega]
        rfl
      · rw [if_neg hr, if_neg (by omega)]

@[simp] theorem regsUpTo_length (s : State) (x : Reg) : (regsUpTo s x).length = x.val + 1 := by
  simp only [regsUpTo, List.length_take, Vector.length_toList]
  omega

/-- The stored bytes are V0 to Vx in register order (R175). -/
theorem regsUpTo_getD (s : State) (x : Reg) (i : Nat) (h : i ≤ x.val) :
    (regsUpTo s x).getD i 0 = s.reg ⟨i, by omega⟩ := by
  have hi : i < (regsUpTo s x).length := by rw [regsUpTo_length]; omega
  rw [List.getD_eq_getElem _ _ hi]
  simp [regsUpTo, State.reg]

@[simp] theorem bcdDigits_length (v : Byte) : (bcdDigits v).length = 3 := rfl

end Sys2Proof.Machine
end

