-- ==== Sys2Proof/Laws/PerInstr.lean ====
section
/-! SUPPORT. Statements about every instruction as syntax, one lemma per constructor. -/

namespace Sys2Proof.Laws.EncodeRow

/-- The opcode of an instruction is one of its row of spec/opcode_table.json: it has the row's fixed bits. -/
def Statement (i : Instr) : Prop := encode i &&& i.row.mask = i.row.pattern

theorem of_nnn (f : Nat) (hf : f < 16) (nnn : BitVec 12) : formNNN f nnn &&& 0xF000 = BitVec.ofNat 16 (f * 4096) := by
  have := nnn.isLt
  rw [and_F000, formNNN_toNat hf, show (f * 4096 + nnn.toNat) / 4096 = f by omega]

theorem of_xkk (f : Nat) (hf : f < 16) (x : Reg) (kk : Byte) :
    formXKK f x kk.toNat &&& 0xF000 = BitVec.ofNat 16 (f * 4096) := by
  have := kk.isLt
  have := x.isLt
  rw [and_F000, formXKK_toNat hf x kk.isLt, show (f * 4096 + x.val * 256 + kk.toNat) / 4096 = f by omega]

theorem of_x (f : Nat) (hf : f < 16) (x : Reg) (kk : Nat) (hk : kk < 256) :
    formXKK f x kk &&& 0xF0FF = BitVec.ofNat 16 (f * 4096 + kk) := by
  have := x.isLt
  rw [and_F0FF, formXKK_toNat hf x hk, show (f * 4096 + x.val * 256 + kk) / 4096 = f by omega,
    show (f * 4096 + x.val * 256 + kk) % 256 = kk by omega]

theorem of_xy (f : Nat) (hf : f < 16) (x y : Reg) (n : Nat) (hn : n < 16) :
    formXYN f x y n &&& 0xF00F = BitVec.ofNat 16 (f * 4096 + n) := by
  have := x.isLt
  have := y.isLt
  rw [and_F00F, formXYN_toNat hf x y hn, show (f * 4096 + x.val * 256 + y.val * 16 + n) / 4096 = f by omega,
    show (f * 4096 + x.val * 256 + y.val * 16 + n) % 16 = n by omega]

theorem of_xyn (f : Nat) (hf : f < 16) (x y n : Fin 16) :
    formXYN f x y n.val &&& 0xF000 = BitVec.ofNat 16 (f * 4096) := by
  have := x.isLt
  have := y.isLt
  have := n.isLt
  rw [and_F000, formXYN_toNat hf x y n.isLt,
    show (f * 4096 + x.val * 256 + y.val * 16 + n.val) / 4096 = f by omega]

theorem cls : Statement (.cls) := rfl
theorem ret : Statement (.ret) := rfl
theorem sys (nnn : BitVec 12) : Statement (.sys nnn) := of_nnn 0x0 (by decide) nnn
theorem jp (nnn : BitVec 12) : Statement (.jp nnn) := of_nnn 0x1 (by decide) nnn
theorem call (nnn : BitVec 12) : Statement (.call nnn) := of_nnn 0x2 (by decide) nnn
theorem seImm (x : Reg) (kk : Byte) : Statement (.seImm x kk) := of_xkk 0x3 (by decide) x kk
theorem sneImm (x : Reg) (kk : Byte) : Statement (.sneImm x kk) := of_xkk 0x4 (by decide) x kk
theorem seReg (x y : Reg) : Statement (.seReg x y) := of_xy 0x5 (by decide) x y 0x0 (by decide)
theorem ldImm (x : Reg) (kk : Byte) : Statement (.ldImm x kk) := of_xkk 0x6 (by decide) x kk
theorem addImm (x : Reg) (kk : Byte) : Statement (.addImm x kk) := of_xkk 0x7 (by decide) x kk
theorem ldReg (x y : Reg) : Statement (.ldReg x y) := of_xy 0x8 (by decide) x y 0x0 (by decide)
theorem orReg (x y : Reg) : Statement (.orReg x y) := of_xy 0x8 (by decide) x y 0x1 (by decide)
theorem andReg (x y : Reg) : Statement (.andReg x y) := of_xy 0x8 (by decide) x y 0x2 (by decide)
theorem xorReg (x y : Reg) : Statement (.xorReg x y) := of_xy 0x8 (by decide) x y 0x3 (by decide)
theorem addReg (x y : Reg) : Statement (.addReg x y) := of_xy 0x8 (by decide) x y 0x4 (by decide)
theorem sub (x y : Reg) : Statement (.sub x y) := of_xy 0x8 (by decide) x y 0x5 (by decide)
theorem shr (x y : Reg) : Statement (.shr x y) := of_xy 0x8 (by decide) x y 0x6 (by decide)
theorem subn (x y : Reg) : Statement (.subn x y) := of_xy 0x8 (by decide) x y 0x7 (by decide)
theorem shl (x y : Reg) : Statement (.shl x y) := of_xy 0x8 (by decide) x y 0xE (by decide)
theorem sneReg (x y : Reg) : Statement (.sneReg x y) := of_xy 0x9 (by decide) x y 0x0 (by decide)
theorem ldI (nnn : BitVec 12) : Statement (.ldI nnn) := of_nnn 0xA (by decide) nnn
theorem jpV0 (nnn : BitVec 12) : Statement (.jpV0 nnn) := of_nnn 0xB (by decide) nnn
theorem rnd (x : Reg) (kk : Byte) : Statement (.rnd x kk) := of_xkk 0xC (by decide) x kk
theorem drw (x y : Reg) (n : Fin 16) : Statement (.drw x y n) := of_xyn 0xD (by decide) x y n
theorem skp (x : Reg) : Statement (.skp x) := of_x 0xE (by decide) x 0x9E (by decide)
theorem sknp (x : Reg) : Statement (.sknp x) := of_x 0xE (by decide) x 0xA1 (by decide)
theorem ldVxDT (x : Reg) : Statement (.ldVxDT x) := of_x 0xF (by decide) x 0x07 (by decide)
theorem ldVxK (x : Reg) : Statement (.ldVxK x) := of_x 0xF (by decide) x 0x0A (by decide)
theorem ldDTVx (x : Reg) : Statement (.ldDTVx x) := of_x 0xF (by decide) x 0x15 (by decide)
theorem ldSTVx (x : Reg) : Statement (.ldSTVx x) := of_x 0xF (by decide) x 0x18 (by decide)
theorem addIVx (x : Reg) : Statement (.addIVx x) := of_x 0xF (by decide) x 0x1E (by decide)
theorem ldFVx (x : Reg) : Statement (.ldFVx x) := of_x 0xF (by decide) x 0x29 (by decide)
theorem ldBVx (x : Reg) : Statement (.ldBVx x) := of_x 0xF (by decide) x 0x33 (by decide)
theorem storeRegs (x : Reg) : Statement (.storeRegs x) := of_x 0xF (by decide) x 0x55 (by decide)
theorem loadRegs (x : Reg) : Statement (.loadRegs x) := of_x 0xF (by decide) x 0x65 (by decide)

end Sys2Proof.Laws.EncodeRow
end

