-- ==== Sys2Proof/Laws/Step.lean ====
section
/-! SUPPORT. What a step can do, said once. -/

namespace Sys2Proof.Machine

/-- A fetch and decode answers an instruction of the opcode at pc, or the bounds fault, or the illegal opcode, in that
order (spec 60_exceptions.md R207). -/
theorem fetchDecodeWith_cases (fx : Bool) (s : State) :
    (4096 < s.pc.toNat + 2 ∧ fetchDecodeWith fx s = .error (.memoryOutOfRange (max s.pc.toNat 4096))) ∨
    (s.pc.toNat + 2 ≤ 4096 ∧ ∃ op, op = bigEndian (s.mem.read s.pc.toNat) (s.mem.read (s.pc.toNat + 1)) ∧
      ((∃ e, decodeOp fx op = .error e ∧ fetchDecodeWith fx s = .error (.illegalInstruction op)) ∨
        ∃ i, decodeOp fx op = .ok i ∧ fetchDecodeWith fx s = .ok i)) := by
  by_cases h : s.pc.toNat + 2 ≤ 4096
  · refine .inr ⟨h, _, rfl, ?_⟩
    cases hd : decodeOp fx (bigEndian (s.mem.read s.pc.toNat) (s.mem.read (s.pc.toNat + 1))) with
    | error e => exact .inl ⟨e, rfl, by simp [fetchDecodeWith, memReadPair_eq, h, hd]⟩
    | ok i => exact .inr ⟨i, rfl, by simp [fetchDecodeWith, memReadPair_eq, h, hd]⟩
  · exact .inl ⟨by omega, by simp [fetchDecodeWith, memReadPair_eq, h]⟩

/-- A cycle: refused while a fault is recorded, else the fault of fetch and decode, else the instruction (R100, R211). -/
theorem cycle_cases (fx : Bool) (meaning : Instr → State → Outcome) (s : State) :
    (∃ r, s.fault = some r ∧ cycle fx meaning s = .fault (.faulted r)) ∨
    (s.fault = none ∧ ∃ c, fetchDecodeWith fx s = .error c ∧ cycle fx meaning s = .next (s.takeFault c)) ∨
    (s.fault = none ∧ ∃ i, fetchDecodeWith fx s = .ok i ∧ cycle fx meaning s = meaning i s) := by
  cases hf : s.fault with
  | some r => exact .inl ⟨r, rfl, by simp [cycle, hf]⟩
  | none =>
    cases hd : fetchDecodeWith fx s with
    | error c => exact .inr (.inl ⟨rfl, c, rfl, by simp [cycle, hf, hd]⟩)
    | ok i => exact .inr (.inr ⟨rfl, i, rfl, by simp [cycle, hf, hd]⟩)

/-- A step: refused while a fault is recorded, else the fault of fetch and decode, else the instruction (R100, R211). -/
theorem step_cases (s : State) :
    (∃ r, s.fault = some r ∧ step s = .fault (.faulted r)) ∨
    (s.fault = none ∧ ∃ c, fetchDecode s = .error c ∧ step s = .next (s.takeFault c)) ∨
    (s.fault = none ∧ ∃ i, fetchDecode s = .ok i ∧ step s = exec i s) := cycle_cases Config.fxExt exec s

/-- An instruction depends on FONT_BASE only if it is Fx29 (R173). -/
theorem execIn_eq_exec {base : Nat} {i : Instr} (h : base = fontBase ∨ ∀ x, i ≠ .ldFVx x) (s : State) :
    execIn base i s = exec i s := by
  rcases h with rfl | h
  · exact execIn_fontBase i s
  · cases i
    case ldFVx x => exact absurd rfl (h x)
    all_goals rfl

/-- Every instruction answers a next state in every state: none stops, and none is refused (R100, R208). -/
theorem exec_next (i : Instr) (s : State) : ∃ t, exec i s = .next t := by
  cases i
  case ret => exact ⟨_, State.commit_eq _ _⟩
  case call => exact ⟨_, State.commit_eq _ _⟩
  case drw => exact ⟨_, State.commit_eq _ _⟩
  case skp => exact ⟨_, State.commit_eq _ _⟩
  case sknp => exact ⟨_, State.commit_eq _ _⟩
  case ldVxK x =>
    cases h : s.latch with
    | none => exact ⟨s.setPc (s.npc - 2), by simp only [exec, execLdVxK, h]⟩
    | some k => exact ⟨((s.setReg x (trunc8 k.val)).setLatch none).advance, by simp only [exec, execLdVxK, h]⟩
  case ldBVx => exact ⟨_, State.commit_eq _ _⟩
  case storeRegs => exact ⟨_, State.commit_eq _ _⟩
  case loadRegs => exact ⟨_, State.commit_eq _ _⟩
  all_goals exact ⟨_, rfl⟩

/-- The host's run of a machine, unfolded once. -/
theorem run_succ (M : Host.Core) (n : Nat) (s : M.State) :
    M.run (n + 1) s =
      (match M.step s with
      | .next t => M.run n t
      | .fault r => .fault r
      | .refused r => .refused r) := by
  cases h : M.step s <;> simp [Host.Core.run, h]

theorem core_run_next {n : Nat} {s t : State} (h : step s = .next t) :
    Sys2Proof.core.run (n + 1) s = Sys2Proof.core.run n t := by
  have h' : Sys2Proof.core.step s = .next t := h
  exact (run_succ Sys2Proof.core n s).trans (by rw [h'])

theorem core_run_fault {n : Nat} {s : State} {r : Fault} (h : step s = .fault r) :
    Sys2Proof.core.run (n + 1) s = .fault r := by
  have h' : Sys2Proof.core.step s = .fault r := h
  exact (run_succ Sys2Proof.core n s).trans (by rw [h'])

theorem core_run_refused {n : Nat} {s : State} {r : Refusal} (h : step s = .refused r) :
    Sys2Proof.core.run (n + 1) s = .refused r := by
  have h' : Sys2Proof.core.step s = .refused r := h
  exact (run_succ Sys2Proof.core n s).trans (by rw [h'])

end Sys2Proof.Machine
end

