-- ==== Sys2Proof/Tests/Slice0.lean ====
section
/-! SUPPORT. The model's own tests: well-formedness smoke, the decoding of one word per instruction written out from its
rule's Encoding line, and the spec's own vectors (95_test_vectors.md; the vector is named at each test). -/

namespace Sys2Proof.Tests

open Sys2Proof.Machine

/-! Well-formedness: an ill-formed term for each check. -/

theorem test_wf_sys_is_not_cls : (Instr.sys 0x0E0).wf true = false := by decide
theorem test_wf_sys_is_not_ret : (Instr.sys 0x0EE).wf true = false := by decide
theorem test_wf_fx_needs_fxExt : (Instr.loadRegs 3).wf false = false := by decide
theorem test_wf_sys_zero : (Instr.sys 0).WellFormed := by decide

/-! Decoding, bit by bit from the Encoding lines (binary) of the rules. -/

theorem test_decode_cls : decodeTableWord 16 0b0000000011100000 = some (.cls) := by decide
theorem test_decode_ret : decodeTableWord 16 0b0000000011101110 = some (.ret) := by decide
theorem test_decode_sys : decodeTableWord 16 0b0000000011111111 = some (.sys 0x0FF) := by decide
theorem test_decode_jp : decodeTableWord 16 0b0001001000110100 = some (.jp 0x234) := by decide
theorem test_decode_call : decodeTableWord 16 0b0010001100000000 = some (.call 0x300) := by decide
theorem test_decode_seImm : decodeTableWord 16 0b0011001100010000 = some (.seImm 3 0x10) := by decide
theorem test_decode_sneImm : decodeTableWord 16 0b0100001100010000 = some (.sneImm 3 0x10) := by decide
theorem test_decode_seReg : decodeTableWord 16 0b0101000100100000 = some (.seReg 1 2) := by decide
theorem test_decode_ldImm : decodeTableWord 16 0b0110101001000010 = some (.ldImm 10 0x42) := by decide
theorem test_decode_addImm : decodeTableWord 16 0b0111000000100000 = some (.addImm 0 0x20) := by decide
theorem test_decode_ldReg : decodeTableWord 16 0b1000000100100000 = some (.ldReg 1 2) := by decide
theorem test_decode_orReg : decodeTableWord 16 0b1000000100100001 = some (.orReg 1 2) := by decide
theorem test_decode_andReg : decodeTableWord 16 0b1000000100100010 = some (.andReg 1 2) := by decide
theorem test_decode_xorReg : decodeTableWord 16 0b1000000100100011 = some (.xorReg 1 2) := by decide
theorem test_decode_addReg : decodeTableWord 16 0b1000000100100100 = some (.addReg 1 2) := by decide
theorem test_decode_sub : decodeTableWord 16 0b1000000100100101 = some (.sub 1 2) := by decide
theorem test_decode_shr : decodeTableWord 16 0b1000010001110110 = some (.shr 4 7) := by decide
theorem test_decode_subn : decodeTableWord 16 0b1000000100100111 = some (.subn 1 2) := by decide
theorem test_decode_shl : decodeTableWord 16 0b1000010000001110 = some (.shl 4 0) := by decide
theorem test_decode_sneReg : decodeTableWord 16 0b1001000100100000 = some (.sneReg 1 2) := by decide
theorem test_decode_ldI : decodeTableWord 16 0b1010000100100011 = some (.ldI 0x123) := by decide
theorem test_decode_jpV0 : decodeTableWord 16 0b1011010111111111 = some (.jpV0 0x5FF) := by decide
theorem test_decode_rnd : decodeTableWord 16 0b1100010111111111 = some (.rnd 5 0xFF) := by decide
theorem test_decode_drw : decodeTableWord 16 0b1101000000010101 = some (.drw 0 1 5) := by decide
theorem test_decode_skp : decodeTableWord 16 0b1110001010011110 = some (.skp 2) := by decide
theorem test_decode_sknp : decodeTableWord 16 0b1110001010100001 = some (.sknp 2) := by decide
theorem test_decode_ldVxDT : decodeTableWord 16 0b1111001100000111 = some (.ldVxDT 3) := by decide
theorem test_decode_ldVxK : decodeTableWord 16 0b1111010100001010 = some (.ldVxK 5) := by decide
theorem test_decode_ldDTVx : decodeTableWord 16 0b1111000100010101 = some (.ldDTVx 1) := by decide
theorem test_decode_ldSTVx : decodeTableWord 16 0b1111000100011000 = some (.ldSTVx 1) := by decide
theorem test_decode_addIVx : decodeTableWord 16 0b1111001000011110 = some (.addIVx 2) := by decide
theorem test_decode_ldFVx : decodeTableWord 16 0b1111000000101001 = some (.ldFVx 0) := by decide
theorem test_decode_ldBVx : decodeTableWord 16 0b1111001100110011 = some (.ldBVx 3) := by decide
theorem test_decode_storeRegs : decodeTableWord 16 0b1111000101010101 = some (.storeRegs 1) := by decide
theorem test_decode_loadRegs : decodeTableWord 16 0b1111001001100101 = some (.loadRegs 2) := by decide

/-- M6 to M9: illegal opcodes are rejected by name. -/
theorem test_decode_illegal :
    [0x5121, 0x9128, 0x8008, 0x800F, 0x800D, 0xE09F, 0xE0A2, 0xF000, 0xF0FF].map (decodeOp true) =
      [0x5121, 0x9128, 0x8008, 0x800F, 0x800D, 0xE09F, 0xE0A2, 0xF000, 0xF0FF].map
        (fun op => .error (.illegal op)) := by decide
/-- M11: FX_EXT disabled. -/
theorem test_decode_fx_disabled : decodeOp false 0xF015 = .error (.illegal 0xF015) := by decide
theorem test_decode_bytes : decode true [0x12, 0x34, 0x56] = .ok (.jp 0x234, [0x56]) := by decide
theorem test_decode_truncated : decode true [0x12] = .error .truncated := by decide

/-! One step on a small state. -/

/-- The outcome's state, if it is a next state. -/
def nextOf (o : Outcome) : Option State :=
  match o with
  | .next t => some t
  | .fault _ => none
  | .refused _ => none

/-- Reset with the listed registers. -/
def withRegs (rs : List (Reg × Byte)) : State := rs.foldl (fun s r => s.setReg r.1 r.2) State.reset

/-- The state after one cycle that runs opcode `op` at pc. -/
def after (op : Nat) (s : State) : Option State :=
  match step (s.withFetchWord 16 op) with
  | .next t => some t
  | .fault _ => none
  | .refused _ => none

/-- Registers `x` and VF, and pc, after one cycle. -/
def seen (op : Nat) (x : Reg) (s : State) : Option (Byte × Byte × Word) :=
  (after op s).map fun t => (t.reg x, t.reg vF, t.pc)

/-- M5. -/
theorem test_fetch_odd_pc :
    seen 0x6005 0 (State.reset.setPc 0x201) = some (0x05, 0, 0x203) := by decide
/-- M2. -/
theorem test_fetch_last_word :
    (after 0x00E0 (State.reset.setPc 0xFFE)).map (fun t => (t.pc, t.fault)) = some (0x1000, none) := by decide
/-- M4. -/
theorem test_fetch_second_byte_out :
    (match step (State.reset.setPc 0xFFF) with
      | .next t => t.fault | .fault _ => none | .refused _ => none) =
      some ⟨.memoryOutOfRange 0x1000, 0xFFF⟩ := by decide
/-- C13, second cycle. -/
theorem test_fetch_pc_out :
    (match step (State.reset.setPc 0x10FE) with
      | .next t => t.fault | .fault _ => none | .refused _ => none) =
      some ⟨.memoryOutOfRange 0x10FE, 0x10FE⟩ := by decide
/-- M6, P7. -/
theorem test_illegal :
    (after 0x5121 State.reset).map (fun t => (t.pc, t.fault)) =
      some (0x200, some ⟨.illegalInstruction 0x5121, 0x200⟩) := by decide
/-- P6, last sentence: a faulted block refuses. -/
theorem test_faulted_is_refused :
    (match step (State.reset.takeFault (.stackOverflow 16)) with
      | .fault (.faulted r) => r.cause.code | .next _ => 0 | .refused _ => 0) = 3 := by decide
/-- M10. -/
theorem test_sys :
    (after 0x00E1 State.reset).map (fun t => (t.pc, t.warnings)) = some (0x202, [0x00E1]) := by decide
/-- C6. -/
theorem test_ret :
    (after 0x00EE { State.reset with sp := 2, stack := (State.reset.stack.set 0 0x300).set 1 0x456 }).map
      (fun t => (t.pc, t.sp, t.stack[1])) = some (0x456, 1, 0x456) := by decide
/-- C3. -/
theorem test_ret_underflow :
    (after 0x00EE State.reset).map (fun t => (t.sp, t.pc, t.fault)) =
      some (0, 0x200, some ⟨.stackUnderflow 0, 0x200⟩) := by decide
/-- C2. -/
theorem test_jp :
    (after 0x1FFF State.reset).map (fun t => t.pc) = some 0xFFF := by decide
/-- C4. -/
theorem test_call :
    (after 0x2400 { State.reset with sp := 15 }).map (fun t => (t.pc, t.sp, t.stack[15])) =
      some (0x400, 16, 0x202) := by decide
/-- C5. -/
theorem test_call_overflow :
    (after 0x2400 { State.reset with sp := 16 }).map (fun t => (t.pc, t.fault)) =
      some (0x200, some ⟨.stackOverflow 16, 0x200⟩) := by decide
/-- C7. -/
theorem test_seImm_taken :
    seen 0x3310 3 (withRegs [(3, 16)]) = some (0x10, 0, 0x204) := by decide
/-- C7. -/
theorem test_seImm_not :
    seen 0x3311 3 (withRegs [(3, 16)]) = some (0x10, 0, 0x202) := by decide
/-- C8. -/
theorem test_sneImm_not :
    seen 0x4310 3 (withRegs [(3, 16)]) = some (0x10, 0, 0x202) := by decide
/-- C8. -/
theorem test_sneImm_taken :
    seen 0x4311 3 (withRegs [(3, 16)]) = some (0x10, 0, 0x204) := by decide
/-- C9. -/
theorem test_seReg :
    seen 0x5120 1 (withRegs [(1, 7), (2, 7)]) = some (7, 0, 0x204) := by decide
/-- C10. -/
theorem test_seReg_not :
    seen 0x5120 1 (withRegs [(1, 7), (2, 8)]) = some (7, 0, 0x202) := by decide
/-- C10. -/
theorem test_sneReg :
    seen 0x9120 1 (withRegs [(1, 7), (2, 8)]) = some (7, 0, 0x204) := by decide
/-- C11. -/
theorem test_sneReg_same :
    seen 0x9440 4 (withRegs [(4, 153)]) = some (0x99, 0, 0x202) := by decide
/-- C13. -/
theorem test_jpV0 :
    seen 0xBFFF 0 (withRegs [(0, 255)]) = some (0xFF, 0, 0x10fe) := by decide
/-- C14. -/
theorem test_jpV0_x_is_address :
    seen 0xB5FF 5 (withRegs [(5, 119)]) = some (0x77, 0, 0x5ff) := by decide
/-- A1. -/
theorem test_ldImm :
    seen 0x6A42 10 (withRegs []) = some (0x42, 0, 0x202) := by decide
/-- A2. -/
theorem test_addImm_no_carry_flag :
    seen 0x7001 0 (withRegs [(0, 255), (15, 85)]) = some (0, 85, 0x202) := by decide
/-- A4. -/
theorem test_ldReg :
    seen 0x8120 1 (withRegs [(2, 153)]) = some (0x99, 0, 0x202) := by decide
/-- A5. -/
theorem test_orReg :
    seen 0x8121 1 (withRegs [(1, 15), (2, 240), (15, 119)]) = some (0xFF, 119, 0x202) := by decide
/-- R124, Example. -/
theorem test_andReg :
    seen 0x8122 1 (withRegs [(1, 60), (2, 15)]) = some (0x0C, 0, 0x202) := by decide
/-- R125, Example. -/
theorem test_xorReg :
    seen 0x8123 1 (withRegs [(1, 60), (2, 15)]) = some (0x33, 0, 0x202) := by decide
/-- A11: y = F. -/
theorem test_addReg_carry :
    seen 0x81F4 1 (withRegs [(1, 16), (15, 245)]) = some (0x05, 1, 0x202) := by decide
/-- A10: x = F, the destination wins. -/
theorem test_addReg_dest_vf :
    seen 0x8F24 15 (withRegs [(2, 32), (15, 240)]) = some (0x10, 16, 0x202) := by decide
/-- A12. -/
theorem test_sub_borrow :
    seen 0x8125 1 (withRegs [(1, 5), (2, 7)]) = some (0xFE, 1, 0x202) := by decide
/-- A16. -/
theorem test_sub_y_vf :
    seen 0x81F5 1 (withRegs [(1, 2), (15, 5)]) = some (0xFD, 1, 0x202) := by decide
/-- A17. -/
theorem test_shr :
    seen 0x8476 4 (withRegs [(4, 5), (7, 170)]) = some (2, 1, 0x202) := by decide
/-- A19. -/
theorem test_shr_vf :
    seen 0x8F06 15 (withRegs [(15, 3)]) = some (1, 1, 0x202) := by decide
/-- A20: the result is in V2. -/
theorem test_subn :
    seen 0x8127 2 (withRegs [(1, 7), (2, 5)]) = some (0xFE, 1, 0x202) := by decide
/-- A24. -/
theorem test_subn_x_vf :
    seen 0x8F27 2 (withRegs [(2, 1), (15, 9)]) = some (0xF8, 1, 0x202) := by decide
/-- A25. -/
theorem test_shl :
    seen 0x840E 4 (withRegs [(4, 129)]) = some (2, 1, 0x202) := by decide
/-- A27. -/
theorem test_shl_vf :
    seen 0x8F0E 15 (withRegs [(15, 129)]) = some (2, 2, 0x202) := by decide
/-- A28. -/
theorem test_ldI :
    (after 0xA123 State.reset).map (fun t => (t.I, t.pc)) = some (0x123, 0x202) := by decide
/-- A30: mask 0 leaves only the draw 0, whatever the environment answers. -/
theorem test_rnd_mask_zero (s : State) : s.rndDraw 0 = 0 := by
  have h := (Config.rndDraw s.draws 0).isLt
  have h0 : (Config.rndDraw s.draws 0).val = 0 := Nat.lt_one_iff.mp h
  unfold State.rndDraw
  rw [h0]
  rfl
/-- A29: Vx is the byte drawn, whatever it is. -/
theorem test_rnd_is_the_draw (s : State) :
    (nextOf (exec (.rnd 5 0xFF) s)).map (fun t => t.reg 5) = some (s.rndDraw 0xFF) := by
  simp [exec, execRnd, nextOf]
/-- R141: each Cxkk draws exactly once. -/
theorem test_rnd_counts : (after 0xC5FF State.reset).map (fun t => (t.draws, t.pc)) = some (1, 0x202) := by decide
/-- S9, with VF as in D12. -/
theorem test_cls :
    (after 0x00E0 ({ withRegs [(15, 0x33)] with
      pix := Vector.replicate 64 (Vector.replicate 32 true) } : State)).map
      (fun t => (t.pix, t.reg vF, t.pc)) = some (Display.blank, 0x33, 0x202) := by decide
/-- D4: wrap, not clip. -/
theorem test_drw_wraps :
    (after 0xD011 { withRegs [(0, 60), (1, 0)] with I := 0x300, mem := [(0x300, 0xFF)] }).map
      (fun t => ((List.range 64).filter (fun x => t.pix.cell x 0), t.reg vF)) =
      some ([0, 1, 2, 3, 60, 61, 62, 63], 0) := by decide
/-- D6. -/
theorem test_drw_collision :
    (after 0xD011 { withRegs [] with
        I := 0x300, mem := [(0x300, 0xF0)], pix := Display.blank.put 2 0 true }).map
      (fun t => ((List.range 64).filter (fun x => t.pix.cell x 0), t.reg vF)) = some ([0, 1, 3], 1) := by decide
/-- D1: glyph 0, its five rows. -/
theorem test_drw_glyph :
    (after 0xD015 State.reset).map (fun t => (List.range 5).map (fun y =>
      (List.range 8).filter (fun x => t.pix.cell x y))) =
      some [[0, 1, 2, 3], [0, 3], [0, 3], [0, 3], [0, 1, 2, 3]] := by decide
/-- D10. -/
theorem test_drw_out_of_range :
    (after 0xD012 { withRegs [(15, 0x55)] with I := 0xFFF }).map (fun t => (t.fault, t.reg vF)) =
      some (some ⟨.memoryOutOfRange 0x1000, 0x200⟩, 0x55) := by decide
/-- D8. -/
theorem test_drw_no_rows :
    (after 0xD010 { withRegs [(15, 0x55)] with I := 0xFFF }).map (fun t => (t.fault, t.reg vF)) =
      some (none, 0) := by decide
/-- K1. -/
theorem test_skp :
    seen 0xE29E 2 { withRegs [(2, 0x0A)] with key := State.reset.key.set 10 true } = some (0x0A, 0, 0x204) := by decide
/-- K3. -/
theorem test_skp_out_of_range :
    (after 0xE29E (withRegs [(2, 0x10)])).map (fun t => t.fault) =
      some (some ⟨.keyOutOfRange 0x10, 0x200⟩) := by decide
/-- K2. -/
theorem test_sknp :
    seen 0xE2A1 2 (withRegs [(2, 0x0A)]) = some (0x0A, 0, 0x204) := by decide
/-- K4. -/
theorem test_sknp_out_of_range :
    (after 0xE2A1 (withRegs [(2, 0xFF)])).map (fun t => t.fault) =
      some (some ⟨.keyOutOfRange 0xFF, 0x200⟩) := by decide
/-- T1. -/
theorem test_ldVxDT :
    seen 0xF307 3 (State.reset.setDT 0x3C) = some (0x3C, 0, 0x202) := by decide
/-- T2. -/
theorem test_ldVxK_hit :
    (after 0xF50A (State.reset.setLatch (some 7))).map (fun t => (t.reg 5, t.latch, t.pc)) =
      some (0x07, none, 0x202) := by decide
/-- T3. -/
theorem test_ldVxK_wait :
    after 0xF50A State.reset = some (State.reset.withFetchWord 16 0xF50A) := by decide
/-- X1. -/
theorem test_ldDTVx :
    (after 0xF115 (withRegs [(1, 0x3C)])).map (fun t => t.DT) = some 0x3C := by decide
/-- X2. -/
theorem test_ldSTVx :
    (after 0xF118 (withRegs [(1, 0x05)])).map (fun t => t.ST) = some 0x05 := by decide
/-- X3. -/
theorem test_addIVx :
    (after 0xF21E { withRegs [(2, 0x10), (15, 0x44)] with I := 0x300 }).map (fun t => (t.I, t.reg vF)) =
      some (0x310, 0x44) := by decide
/-- X4. -/
theorem test_addIVx_wraps :
    (after 0xF21E { withRegs [(2, 0x01)] with I := 0xFFFF }).map (fun t => t.I) = some 0 := by decide
/-- X6. -/
theorem test_ldFVx :
    (after 0xF029 (withRegs [(0, 0x0B)])).map (fun t => t.I) = some 0x037 := by decide
/-- X7. -/
theorem test_ldFVx_low_nibble :
    (after 0xF029 (withRegs [(0, 0x1A)])).map (fun t => t.I) = some 0x032 := by decide
/-- X9. -/
theorem test_ldBVx :
    (after 0xF333 { withRegs [(3, 0xFF)] with I := 0x300 }).map (fun t => (t.mem.readList 0x300 3, t.I)) =
      some ([2, 5, 5], 0x300) := by decide
/-- X12. -/
theorem test_ldBVx_out_of_range :
    (after 0xF333 { withRegs [(3, 0x7B)] with I := 0xFFE }).map (fun t => (t.fault, t.mem.readList 0xFFE 2)) =
      some (some ⟨.memoryOutOfRange 0x1000, 0x200⟩, [0, 0]) := by decide
/-- X13. -/
theorem test_storeRegs :
    (after 0xF155 { withRegs [(0, 0x11), (1, 0x22), (2, 0x33)] with I := 0x300 }).map
      (fun t => (t.mem.readList 0x300 3, t.I)) = some ([0x11, 0x22, 0], 0x300) := by decide
/-- X14 and X15. -/
theorem test_storeRegs_last :
    ([0xFF0, 0xFF1].map fun i => (after 0xFF55 { State.reset with I := i }).map (fun t => t.fault)) =
      [some none, some (some ⟨.memoryOutOfRange 0x1000, 0x200⟩)] := by decide
/-- X18: glyph 0 from the font. -/
theorem test_loadRegs :
    (after 0xF465 State.reset).map (fun t => (List.range 6).map (fun i => t.reg (Fin.ofNat 16 i))) =
      some [0xF0, 0x90, 0x90, 0x90, 0xF0, 0] := by decide
/-- X19, last register. -/
theorem test_loadRegs_vf :
    seen 0xFF65 15 { State.reset with I := 0x300, mem := [(0x30F, 0x0F)] } = some (0x0F, 0x0F, 0x202) := by decide

/-! Host operations. -/

/-- S1. -/
theorem test_set_pixel_wraps :
    (perform (.isPixelSet 63 31) (perform (.setPixel (-1) (-1) true) State.reset).1).2 = .bool true := by decide
/-- S7: set_delay(5), 4 ticks. -/
theorem test_ticks :
    (tick (tick (tick (tick (State.reset.setDT 5))))).DT = 1 := by decide
/-- S8. -/
theorem test_host_bounds :
    [(perform (.readByte 0xFFF) State.reset).2, (perform (.readByte 0x1000) State.reset).2,
      (perform (.isPressed 15) State.reset).2, (perform (.isPressed 16) State.reset).2] =
      [.byte 0, .error (.memoryOutOfRange 0x1000), .bool false, .error .outOfRange] := by decide
/-- K7: release of the latched key under both policies. -/
theorem test_latch_clear_and_keep :
    ([Config.LatchPolicy.clearIfSame, .keep].map fun p =>
      (setKeyStateWith p 5 false { State.reset with latch := some 5 }).1.latch) = [none, some 5] := by decide
/-- T6. -/
theorem test_frame_stopped :
    perform (.runFrame 0) (State.reset.setDT 5) = (State.reset.setDT 5, .frame false false) := by decide
/-- T8, CYCLES_PER_FRAME = 4. -/
theorem test_frame_ticks_after_cycles :
    ((fun r => (r.1.pc, r.1.DT, r.1.reg 0, r.2)) (performIn { specParams with cyclesPerFrame := 4 } (.runFrame 0)
      { (perform (.loadRom [0x60, 0x01, 0x12, 0x50]) State.reset).1 with DT := 5 })) =
      (0x254, 4, 1, .frame true false) := by decide
/-- T9. -/
theorem test_frame_fault :
    ((fun r => (r.1.DT, r.1.reg 0, r.2)) (perform (.runFrame 4)
      { (perform (.loadRom [0x60, 0x01, 0x00, 0xEE]) State.reset).1 with DT := 5 })) =
      (5, 1, .faulted ⟨.stackUnderflow 0, 0x202⟩) := by decide
/-- T11. -/
theorem test_frame_sound_after_tick :
    ((fun r => (r.1.ST, r.2)) (perform (.runFrame 3)
      (perform (.loadRom [0x61, 0x01, 0xF1, 0x18, 0x12, 0x04]) State.reset).1)) = (0, .frame true false) := by decide
/-- R2. -/
theorem test_load_rom_empty :
    perform (.loadRom []) (State.reset.setDT 9) = (State.reset, .error .romEmpty) := by decide
/-- M11: the cycle of a block with FX_EXT disabled. -/
theorem test_fx_disabled_cycle :
    (match stepIn { specParams with fxExt := false } ((withRegs []).withFetchWord 16 0xF015) with
      | .next t => t.fault | .fault _ => none | .refused _ => none) =
      some ⟨.illegalInstruction 0xF015, 0x200⟩ := by decide
/-- R56, R57, R173 with FONT_BASE = 0x005: the bytes around its start, and where glyph 1 is. -/
theorem test_font_base_parameter :
    ((performIn { specParams with fontBase := 5 } .reset State.reset).1.mem.readList 3 4,
      (nextOf (execIn 5 (.ldFVx 0) (withRegs [(0, 1)]))).map (fun t => t.I)) = ([0x00, 0x00, 0xF0, 0x90], some 0x00A) := by decide
/-- R56 and R57 with another table: only its first byte differs. -/
theorem test_font_parameter :
    ((performWith (defaultFont.set 0 0x12) .reset State.reset).1.mem.readList 0 2,
      (performWith (defaultFont.set 0 0x12) .reset State.reset).1.mem) = ([0x12, 0x90], [(0, 0x12)]) := by decide
/-- R5 of 95_test_vectors.md 2.8. -/
theorem test_load_rom_clears_fault :
    ((fun r => (r.1.fault, r.1.mem.readList 0x200 2, r.1.run, r.2))
      (perform (.loadRom [0x12, 0x00]) (State.reset.takeFault (.stackOverflow 16)))) =
      (none, [0x12, 0x00], .running, .ok) := by decide
/-- R80: the spellings of P1 and P2, and of an illegal opcode. -/
theorem test_print :
    [0x6105, 0x2210, 0x8014, 0x00EE, 0xF265, 0x5121].map (printOp true) =
      ["LD V1, 0x05", "CALL 0x210", "ADD V0, V1", "RET", "LD V2, [I]", ".word 0x5121"] := by decide

/-! Witnesses: for each statement of Certificates/Slice0/Obligations.lean that has hypotheses, states and operands that
meet all of them together, one for each clause, at the ends of its range. -/

/-- Reset with an opcode at 0x200. -/
def withOp (op : Word) : State := { State.reset with mem := Memory.writeList [] 0x200 (opBytes op) }

theorem witness_DecodeEncodeRoundTrip :
    (Instr.loadRegs 15).wf true = true ∧ (Instr.ldVxK 15).wf false = true ∧ (Instr.sys 0xFFF).wf true = true := by decide

theorem witness_EncodeDecodeRoundTrip :
    decodeOp true 0xFF65 = .ok (.loadRegs 15) ∧ decodeOp false 0x0FFF = .ok (.sys 0xFFF) := by decide

theorem witness_IllegalOpcodesAreExactlyThese :
    decodeOp true 0x5001 = .error (.illegal 0x5001) ∧ decodeOp true 0x800F = .error (.illegal 0x800F) ∧
    decodeOp true 0xEFFF = .error (.illegal 0xEFFF) ∧ decodeOp false 0xF015 = .error (.illegal 0xF015) ∧
    decodeOp true 0xFFFF = .error (.illegal 0xFFFF) := by decide

/-- The last address an opcode can be fetched from, 0xFFE. -/
theorem witness_StepRunsTheInstructionAtPc :
    let s : State := { State.reset with pc := 0xFFE, mem := [(0xFFE, 0xF5), (0xFFF, 0x0A)] }
    s.fault = none ∧ (Instr.ldVxK 5).WellFormed ∧ s.pc.toNat + 2 ≤ 4096 ∧
      s.mem.read s.pc.toNat = hiByte (encode (.ldVxK 5)) ∧ s.mem.read (s.pc.toNat + 1) = loByte (encode (.ldVxK 5)) := by
  decide

theorem witness_FetchPastTheEndFaults :
    State.reset.fault = none ∧ 0xFFF ≤ (State.reset.setPc 0xFFF).pc.toNat ∧
      0xFFF ≤ (State.reset.setPc 0x1000).pc.toNat ∧ 0xFFF ≤ (State.reset.setPc 0xFFFF).pc.toNat := by decide

theorem witness_IllegalOpcodeFaults :
    let s := withOp 0x5121
    s.fault = none ∧ s.pc.toNat + 2 ≤ 4096 ∧ 0x5121 = bigEndian (s.mem.read s.pc.toNat) (s.mem.read (s.pc.toNat + 1)) ∧
      decodeOp Config.fxExt 0x5121 = .error (.illegal 0x5121) := by decide

/-- One state for each line of R207's order, and one whose cycle does not fault. -/
theorem witness_CycleFaultsExactlyByPriority :
    [State.reset.setPc 0x1000, withOp 0x5121, withOp 0x00EE, { withOp 0x2200 with sp := 16 },
      (withOp 0xE09E).setReg 0 16, (withOp 0xD011).setI 0x1000, (withOp 0xF033).setI 0xFFE,
      (withOp 0xF155).setI 0xFFF, (withOp 0xF165).setI 0xFFF, withOp 0x00E0].map
      (fun s => (s.fault, (cycleFault s).map FaultCause.code)) =
    [(none, some 1), (none, some 5), (none, some 4), (none, some 3), (none, some 2), (none, some 1), (none, some 1),
      (none, some 1), (none, some 1), (none, none)] := by decide

theorem witness_FaultsArePrecise :
    ∃ t r, (withOp 0x00EE).fault = none ∧ step (withOp 0x00EE) = .next t ∧ t.fault = some r :=
  ⟨_, _, rfl, rfl, rfl⟩

/-- For FaultedBlockIsRefused and OnlyResetClearsAFault; 4095 is the last address of its memory clause. -/
theorem witness_FaultedBlock :
    (State.reset.takeFault (.stackUnderflow 0)).fault = some ⟨.stackUnderflow 0, 0x200⟩ ∧ 4095 < 4096 := by decide

theorem witness_ReturnPopsOrUnderflows :
    { State.reset with sp := 1 }.sp ≠ 0 ∧ (0 : Fin 16).val + 1 = { State.reset with sp := 1 }.sp.val ∧
    { State.reset with sp := 16 }.sp ≠ 0 ∧ (15 : Fin 16).val + 1 = { State.reset with sp := 16 }.sp.val ∧
    State.reset.sp = 0 := by decide

/-- For CallPushesOrOverflows and CallThenReturnComesBack. -/
theorem witness_Call :
    State.reset.sp ≠ 16 ∧ { State.reset with sp := 15 }.sp ≠ 16 ∧ { State.reset with sp := 16 }.sp = 16 := by decide

theorem witness_CallThenReturnComesBack :
    ∃ t t' : State, State.reset.sp ≠ 16 ∧ exec (.call 0x300) State.reset = .next t ∧ t'.stack = t.stack ∧
      t'.sp = t.sp ∧ t'.pc ≠ t.pc :=
  ⟨_, { (State.reset.push 0x202).toOption.getD State.reset with pc := 0x310 }, by decide, rfl, rfl, rfl, by decide⟩

/-- The clauses that ask that the destination is not VF. -/
theorem witness_destination_is_not_VF : (0 : Reg) ≠ 15 ∧ (14 : Reg) ≠ 15 := by decide

theorem witness_DrawTogglesTheSpriteCells :
    ((0 : Fin 16).val = 0 ∨ (State.reset.setI 0xFFFF).I.toNat + 0 - 1 < 4096) ∧
    (State.reset.setI 0xFFF).I.toNat + (1 : Fin 16).val - 1 < 4096 ∧
    (State.reset.setI 0xFF1).I.toNat + (15 : Fin 16).val - 1 < 4096 ∧
    (2 : Fin 16).val ≠ 0 ∧ 4096 ≤ (State.reset.setI 0xFFF).I.toNat + (2 : Fin 16).val - 1 := by decide

theorem witness_DrawingTwiceRestoresTheDisplay :
    ∃ t t' : State, State.reset.I.toNat + (5 : Fin 16).val - 1 < 4096 ∧ exec (.drw 0 1 5) State.reset = .next t ∧
      t'.pix = t.pix ∧ t'.mem = State.reset.mem ∧ t'.I = State.reset.I ∧ t'.reg 0 = State.reset.reg 0 ∧
      t'.reg 1 = State.reset.reg 1 :=
  ⟨_, _, by decide, rfl, rfl, rfl, rfl, rfl, rfl⟩

theorem witness_KeySkips :
    (State.reset.reg 0).toNat = (0 : Fin 16).val ∧ ((withRegs [(0, 15)]).reg 0).toNat = (15 : Fin 16).val ∧
    16 ≤ ((withRegs [(0, 16)]).reg 0).toNat ∧ 16 ≤ ((withRegs [(0, 255)]).reg 0).toNat := by decide

theorem witness_KeyWaitConsumesOrRepeats :
    (State.reset.setLatch (some 0)).latch = some 0 ∧ (State.reset.setLatch (some 15)).latch = some 15 ∧
    State.reset.latch = none := by decide

theorem witness_DecimalStoreWritesThreeDigits :
    State.reset.mem.wf = true ∧ (State.reset.setI 0xFFD).I.toNat + 2 < 4096 ∧
    4096 ≤ (State.reset.setI 0xFFE).I.toNat + 2 ∧ 4096 ≤ (State.reset.setI 0xFFFF).I.toNat + 2 := by decide

/-- For StoreRegistersWritesV0ToVx, LoadRegistersReadsV0ToVx and StoreThenLoadGivesRegistersBack. -/
theorem witness_StoreAndLoadRegisters :
    State.reset.mem.wf = true ∧ (State.reset.setI 0xFFF).I.toNat + (0 : Reg).val < 4096 ∧
    (State.reset.setI 0xFF0).I.toNat + (15 : Reg).val < 4096 ∧
    4096 ≤ (State.reset.setI 0xFFF).I.toNat + (1 : Reg).val ∧
    4096 ≤ (State.reset.setI 0x1000).I.toNat + (0 : Reg).val := by decide

theorem witness_StoreThenLoadGivesRegistersBack :
    ∃ t t' : State, (State.reset.setI 0xFF0).mem.wf = true ∧ (State.reset.setI 0xFF0).I.toNat + (15 : Reg).val < 4096 ∧
      exec (.storeRegs 15) (State.reset.setI 0xFF0) = .next t ∧ t'.mem = t.mem ∧ t'.I = t.I :=
  ⟨_, _, by decide, by decide, rfl, rfl, rfl⟩

theorem witness_StoredOpcodeIsFetchedNext :
    let s := (withRegs [(1, 0xE0)]).setI 0x202
    s.mem.wf = true ∧ s.fault = none ∧ Instr.cls.WellFormed ∧ 1 ≤ (1 : Reg).val ∧ s.I.toNat + (1 : Reg).val < 4096 ∧
      s.I = s.pc + 2 ∧ s.reg 0 = hiByte (encode .cls) ∧ s.reg 1 = loByte (encode .cls) := by decide

/-- Every item of WhoWritesWhat is changed by some instruction it names. -/
theorem witness_WhoWritesWhat :
    (nextOf (exec (.ldI 1) State.reset)).map (fun t => decide (t.I ≠ State.reset.I)) = some true ∧
    (nextOf (exec (.call 1) State.reset)).map (fun t => decide (t.sp ≠ 0 ∧ t.stack ≠ State.reset.stack)) = some true ∧
    (nextOf (exec (.ldDTVx 0) (withRegs [(0, 1)]))).map (fun t => t.DT) = some 1 ∧
    (nextOf (exec (.ldSTVx 0) (withRegs [(0, 1)]))).map (fun t => t.ST) = some 1 ∧
    (nextOf (exec (.ldVxK 0) (State.reset.setLatch (some 3)))).map (fun t => t.latch) = some none ∧
    (nextOf (exec (.drw 0 0 1) State.reset)).map (fun t => decide (t.pix ≠ State.reset.pix)) = some true ∧
    (nextOf (exec (.storeRegs 0) (State.reset))).map (fun t => decide (t.mem ≠ State.reset.mem)) = some true ∧
    (nextOf (exec (.rnd 0 0) State.reset)).map (fun t => t.draws) = some 1 ∧
    (nextOf (exec (.sys 1) State.reset)).map (fun t => t.warnings) = some [1] ∧
    (nextOf (exec (.jp 1) State.reset)).map (fun t => decide (t.pc ≠ State.reset.pc + 2 ∧ t.fault = none)) =
      some true := by decide

theorem witness_OnlyFlagWritersChangeVf :
    ∃ t, exec (.addReg 0 0) (withRegs [(0, 0x80)]) = .next t ∧ t.reg 15 ≠ (withRegs [(0, 0x80)]).reg 15 :=
  ⟨_, rfl, by decide⟩

/-- For NoInstructionReadsSoundRunOrWarnings. -/
theorem witness_step_answers_next : ∃ t, step (withOp 0x00E0) = .next t := ⟨_, rfl⟩

theorem witness_StaleStackEntriesAreUnobservable :
    ∃ t, (∀ j : Fin 16, j.val < { withOp 0x00EE with sp := 15 }.sp.val →
        ((withOp 0x00EE).stack.set 15 0x222)[j] = { withOp 0x00EE with sp := 15 }.stack[j]) ∧
      step { withOp 0x00EE with sp := 15 } = .next t :=
  ⟨_, by decide, rfl⟩

/-- For EveryCycleKeepsTheInvariant and EveryHostOperationKeepsTheInvariant: a state with a latched key, a return address
and a timer running that meets the invariant, and its step. -/
theorem witness_Invariant :
    let s : State := { withOp 0x00EE with
      sp := 1, stack := State.reset.stack.set 0 0x1000, latch := some 5, key := State.reset.key.set 5 true, DT := 9 }
    s.Inv ∧ ∃ t, step s = .next t := by
  refine ⟨⟨by decide, by decide, by decide, ?_, ?_⟩, _, rfl⟩
  · intro k hk
    cases hk
    rfl
  · intro r hr
    cases hr

/-- A faulted state that meets the invariant. -/
theorem witness_Invariant_faulted : (State.reset.takeFault (.stackUnderflow 0)).Inv := by
  refine ⟨by decide, by decide, by decide, ?_, ?_⟩
  · intro k hk
    cases hk
  · intro r hr
    cases hr
    exact ⟨rfl, rfl⟩

theorem witness_LoadRomCopiesAndRuns :
    ([] : List Byte).length = 0 ∧ 3584 < (List.replicate 3585 (0 : Byte)).length ∧
    0 < [(0x12 : Byte)].length ∧ [(0x12 : Byte)].length ≤ 3584 ∧
    (List.replicate 3584 (0 : Byte)).length ≤ 3584 ∧ 0 < (List.replicate 3584 (0 : Byte)).length := by
  refine ⟨rfl, ?_, by decide, by decide, ?_, ?_⟩ <;> rw [List.length_replicate] <;> decide

theorem witness_FrameIsItsCyclesThenOneTick :
    ∃ t, 1 ≠ 0 ∧ { withOp 0x00E0 with run := .running }.fault = none ∧
      { withOp 0x00E0 with run := .running }.run = .running ∧
      Sys2Proof.core.run 1 { withOp 0x00E0 with run := .running } = .next t ∧ t.fault = none :=
  ⟨_, by decide, rfl, rfl, rfl, rfl⟩

theorem witness_FaultEndsTheFrameWithoutTick :
    ∃ t r, { withOp 0x00EE with run := .running }.fault = none ∧
      { withOp 0x00EE with run := .running }.run = .running ∧ 1 ≤ 4 ∧
      Sys2Proof.core.run 1 { withOp 0x00EE with run := .running } = .next t ∧ t.fault = some r :=
  ⟨_, _, rfl, rfl, by decide, rfl, rfl⟩

theorem witness_FrameOverrideAndStoppedBlock : State.reset.fault = none ∧ State.reset.run = .stopped := by decide

/-- For KeyEventsSetKeyAndLatch: the last key number, the first that is none, and a latched key that is released. -/
theorem witness_KeyEventsSetKeyAndLatch :
    (15 : Fin 16).val = 15 ∧ 16 ≤ 16 ∧ (State.reset.setLatch (some 5)).latch = some 5 := by decide

/-- For MemoryPortChecksBounds: both sides of each bound. -/
theorem witness_MemoryPortChecksBounds :
    State.reset.mem.wf = true ∧ 4095 < 4096 ∧ 4096 ≤ 4096 ∧ 4094 + 1 < 4096 ∧ 4096 ≤ 4095 + 1 := by decide

/-- For FontTableIsAParameter: legal parameters at both ends of FONT_BASE's range, an operation that is neither reset
nor load, and both ends of the load's range. -/
theorem witness_FontTableIsAParameter :
    Config.Params.Legal { specParams with cyclesPerFrame := 1, fontBase := 0 } ∧
    Config.Params.Legal { specParams with cyclesPerFrame := 1, fontBase := 4016 } ∧
    (defaultFont.set 0 0) ≠ defaultFont ∧ HostOp.tick ≠ .reset ∧ (∀ bytes, HostOp.tick ≠ .loadRom bytes) ∧
    0 < [(0x12 : Byte)].length ∧ (List.replicate 3584 (0 : Byte)).length ≤ 3584 := by
  refine ⟨?_, ?_, by decide, by decide, fun _ => by simp, by decide, ?_⟩
  · simp [Config.Params.Legal, Config.memSize]
  · simp [Config.Params.Legal, Config.memSize]
  · rw [List.length_replicate]

/-- For the clauses about a block with other parameters: FX_EXT disabled, and the largest legal FONT_BASE. -/
theorem witness_parameters :
    let p : Config.Params := { specParams with fxExt := false, fontBase := 4016 }
    let s := withOp 0xF065
    p.fxExt = false ∧ (Instr.cls).wf p.fxExt = true ∧ s.fault = none ∧ s.pc.toNat + 2 ≤ 4096 ∧
      0xF065 = bigEndian (s.mem.read s.pc.toNat) (s.mem.read (s.pc.toNat + 1)) ∧
      decodeOp p.fxExt 0xF065 = .error (.illegal 0xF065) ∧ (0xF065 : Word).toNat / 4096 = 0xF ∧
      (0xF065 : Word).toNat % 256 ∈ [0x15, 0x18, 0x1E, 0x29, 0x33, 0x55, 0x65] ∧ 4016 + 80 ≤ 4096 := by decide

/-- For RunsEndOnlyInAFault: a state that hangs in each of the three ways, and a final one. -/
theorem witness_RunsEndOnlyInAFault :
    (withOp 0x1200).hung ∧ (withOp 0xB200).hung ∧ (withOp 0xF00A).hung ∧
    (State.reset.takeFault (.stackUnderflow 0)).isFinal := by
  refine ⟨rfl, rfl, rfl, ?_⟩
  simp [State.isFinal, State.takeFault]

end Sys2Proof.Tests
end

section
/-! SUPPORT. The host memory port (20_memory.md R63): what each of its three operations answers for any address, and
the obligation about its bounds, O57. -/

namespace Sys2Proof.Machine

/-- No carry is lost: the pair is the exact sum of R53. -/
theorem bigEndian_toNat (hi lo : Byte) : (bigEndian hi lo).toNat = hi.toNat * 256 + lo.toNat := by
  have hlt : hi.toNat * 256 + lo.toNat < 2 ^ 16 := by omega
  rw [bigEndian, BitVec.toNat_ofNat, Nat.mod_eq_of_lt hlt]

/-- The bounds check of a single byte names the byte's own address (R52). -/
theorem firstOut_one (a : Nat) : firstOut a 1 = if a < 4096 then none else some a := by
  split
  · exact firstOut_eq_none.mpr (by omega)
  · exact firstOut_eq_some.mpr (by omega)

/-- The bounds check of a pair (R52). -/
theorem firstOut_two (a : Nat) : firstOut a 2 = if a + 1 < 4096 then none else some (max a 4096) := by
  split
  · exact firstOut_eq_none.mpr (by omega)
  · exact firstOut_eq_some.mpr (by omega)

theorem perform_readByte (a : Nat) (s : State) :
    perform (.readByte a) s =
      (s, if a < 4096 then .byte (s.mem.read a) else .error (.memoryOutOfRange a)) := by
  change (s, readByte a s) = _
  by_cases h : a < 4096 <;> simp [readByte, firstOut_one, h]

theorem perform_writeByte (a : Nat) (v : Byte) (s : State) :
    perform (.writeByte a v) s =
      if a < 4096 then (s.setMem (s.mem.write a v), .ok) else (s, .error (.memoryOutOfRange a)) := by
  change writeByte a v s = _
  by_cases h : a < 4096 <;> simp [writeByte, firstOut_one, h]

theorem perform_readTwoBytes (a : Nat) (s : State) :
    perform (.readTwoBytes a) s =
      (s, if a + 1 < 4096 then .word (bigEndian (s.mem.read a) (s.mem.read (a + 1)))
        else .error (.memoryOutOfRange (max a 4096))) := by
  change (s, readTwoBytes a s) = _
  by_cases h : a + 1 < 4096 <;> simp [readTwoBytes, firstOut_two, h]

/-- Settles O57: each operation of the port answers by its bounds check, and a write inside memory obeys the
read-after-write law of memory in canonical form. -/
theorem memoryPortChecksBounds : Obligations.MemoryPortChecksBounds := by
  intro s a v hwf
  refine ⟨fun ha => ⟨?_, s.setMem (s.mem.write a v), ?_, rfl, ?_⟩, fun ha => ⟨?_, ?_⟩,
    fun ha => ⟨bigEndian (s.mem.read a) (s.mem.read (a + 1)), ?_, bigEndian_toNat _ _⟩, fun ha => ?_⟩
  · rw [perform_readByte, if_pos ha]
  · rw [perform_writeByte, if_pos ha]
  · exact Memory.read_write hwf a v
  · rw [perform_readByte, if_neg ha.not_gt]
  · rw [perform_writeByte, if_neg ha.not_gt]
  · rw [perform_readTwoBytes, if_pos ha]
  · rw [perform_readTwoBytes, if_neg ha.not_gt]

end Sys2Proof.Machine
end

section
/-! SUPPORT. Control transfer (40_control.md R103 to R112): the targets as numbers, one rule per instruction that says
what its cycle answers, and the obligations O12, O13, O14, O16, O17 and O18. -/

namespace Sys2Proof.Machine

/-! Opcodes with each field's weight before it, as the obligations write them. -/

theorem formXKK_toNat_weights {f : Nat} (hf : f < 16) (x : Reg) (kk : Byte) :
    (formXKK f x kk.toNat).toNat = 0x1000 * f + 0x100 * x.val + kk.toNat := by
  rw [formXKK_toNat hf x kk.isLt]
  omega

theorem formXYN_toNat_weights {f n : Nat} (hf : f < 16) (x y : Reg) (hn : n < 16) :
    (formXYN f x y n).toNat = 0x1000 * f + 0x100 * x.val + 0x10 * y.val + n := by
  rw [formXYN_toNat hf x y hn]
  omega

/-! The targets. -/

/-- Zero extension keeps the number (R73). -/
@[simp] theorem zextAddr_toNat (nnn : BitVec 12) : (zextAddr nnn).toNat = nnn.toNat := by
  have hlt : nnn.toNat < 2 ^ 16 := by omega
  rw [zextAddr, trunc16, BitVec.toNat_ofNat, Nat.mod_eq_of_lt hlt]

/-- The sum of R111 is exact: a byte and a 12-bit address stay below 2^16. -/
@[simp] theorem v0Target_toNat (s : State) (nnn : BitVec 12) :
    (v0Target s nnn).toNat = (s.reg 0).toNat + nnn.toNat := by
  have hlt : (s.reg 0).toNat + nnn.toNat < 2 ^ 16 := by omega
  rw [v0Target, trunc16, BitVec.toNat_ofNat, Nat.mod_eq_of_lt hlt]

/-- The warning of a legacy system call carries the opcode itself: family 0 leaves the address alone (R75, R103). -/
theorem sysOpcode_eq_encode (nnn : BitVec 12) : sysOpcode nnn = encode (.sys nnn) := by
  apply BitVec.eq_of_toNat_eq
  rw [sysOpcode, zextAddr_toNat, encode, formNNN_toNat (by decide)]
  omega

/-- The address past the next instruction (R112). -/
theorem State.npc_add_two (s : State) : s.npc + 2 = s.pc + 4 := BitVec.add_assoc s.pc 2 2

/-! One rule per instruction. -/

section
variable (s : State)

/-- A skip on equality, by the two targets of R112. -/
theorem State.skipIf_beq (a b : Byte) :
    s.skipIf (a == b) = s.setPc (if a = b then s.pc + 4 else s.pc + 2) := by
  rw [State.skipIf_eq, State.npc_add_two]
  by_cases h : a = b <;> simp [h, State.npc]

/-- A skip on inequality, by the two targets of R112. -/
theorem State.skipIf_bne (a b : Byte) :
    s.skipIf (a != b) = s.setPc (if a = b then s.pc + 2 else s.pc + 4) := by
  rw [State.skipIf_eq, State.npc_add_two]
  by_cases h : a = b <;> simp [h, State.npc]

theorem exec_sys (nnn : BitVec 12) : exec (.sys nnn) s = .next (s.warn (encode (.sys nnn))).advance := by
  rw [← sysOpcode_eq_encode]
  rfl

theorem exec_jp (nnn : BitVec 12) : exec (.jp nnn) s = .next (s.setPc (zextAddr nnn)) := rfl

theorem exec_jpV0 (nnn : BitVec 12) : exec (.jpV0 nnn) s = .next (s.setPc (v0Target s nnn)) := rfl

theorem exec_seImm (x : Reg) (kk : Byte) :
    exec (.seImm x kk) s = .next (s.setPc (if s.reg x = kk then s.pc + 4 else s.pc + 2)) :=
  congrArg Host.Outcome.next (s.skipIf_beq (s.reg x) kk)

theorem exec_sneImm (x : Reg) (kk : Byte) :
    exec (.sneImm x kk) s = .next (s.setPc (if s.reg x = kk then s.pc + 2 else s.pc + 4)) :=
  congrArg Host.Outcome.next (s.skipIf_bne (s.reg x) kk)

theorem exec_seReg (x y : Reg) :
    exec (.seReg x y) s = .next (s.setPc (if s.reg x = s.reg y then s.pc + 4 else s.pc + 2)) :=
  congrArg Host.Outcome.next (s.skipIf_beq (s.reg x) (s.reg y))

theorem exec_sneReg (x y : Reg) :
    exec (.sneReg x y) s = .next (s.setPc (if s.reg x = s.reg y then s.pc + 2 else s.pc + 4)) :=
  congrArg Host.Outcome.next (s.skipIf_bne (s.reg x) (s.reg y))

variable {s}

/-- RET on an empty stack (R204). -/
theorem exec_ret_of_empty (h : s.sp = 0) : exec .ret s = .next (s.takeFault (.stackUnderflow 0)) := by
  obtain ⟨-, hpop⟩ | ⟨hne, -⟩ := s.popPc_eq
  · rw [exec, execRet, hpop, State.commit_eq]
  · exact absurd (congrArg Fin.val h) hne

/-- RET with an entry in use pops it (R104). -/
theorem exec_ret_of_nonempty (h : s.sp ≠ 0) :
    exec .ret s = .next { s with
      pc := s.stack[s.sp.val - 1]'(by have := s.sp.isLt; omega), sp := ⟨s.sp.val - 1, by omega⟩ } := by
  obtain ⟨h0, -⟩ | ⟨-, hpop⟩ := s.popPc_eq
  · exact absurd h0 h
  · rw [exec, execRet, hpop, State.commit_eq]

/-- CALL on a full stack (R203). -/
theorem exec_call_of_full (nnn : BitVec 12) (h : s.sp = 16) :
    exec (.call nnn) s = .next (s.takeFault (.stackOverflow 16)) := by
  obtain ⟨-, hpush⟩ | ⟨hlt, -⟩ := s.push_eq s.npc
  · rw [exec, execCall, hpush, State.commit_eq]
    rfl
  · exact absurd (congrArg Fin.val h) hlt.ne

/-- CALL with room on the stack pushes the next address and jumps (R106). -/
theorem exec_call_of_room (nnn : BitVec 12) (h : s.sp ≠ 16) :
    ∃ hsp : s.sp.val < 16, exec (.call nnn) s = .next { s with
      pc := zextAddr nnn, stack := s.stack.set s.sp.val s.npc, sp := ⟨s.sp.val + 1, by omega⟩ } := by
  obtain ⟨h16, -⟩ | ⟨hsp, hpush⟩ := s.push_eq s.npc
  · exact absurd h16 h
  · refine ⟨hsp, ?_⟩
    rw [exec, execCall, hpush, State.commit_eq]
    rfl

end

/-! The obligations. -/

/-- Settles O12, by the rule of the legacy system call. -/
theorem systemCallOnlyWarns : Obligations.SystemCallOnlyWarns := by
  intro nnn s
  refine ⟨?_, exec_sys s nnn⟩
  rw [encode, formNNN_toNat (by decide)]
  omega

/-- Settles O13, by the two cases of a pop. -/
theorem returnPopsOrUnderflows : Obligations.ReturnPopsOrUnderflows := by
  intro s
  refine ⟨rfl, fun hne => ?_, fun h0 => exec_ret_of_empty h0⟩
  have hpos : 0 < s.sp.val := Nat.pos_of_ne_zero (Fin.val_ne_of_ne hne)
  refine ⟨_, exec_ret_of_nonempty hne, Nat.sub_add_cancel hpos, fun j hj => ?_, rfl, fun _ => rfl⟩
  have htop : s.sp.val - 1 = j.val := by omega
  simp only [htop, Fin.getElem_fin]

/-- Settles O14, by the two cases of a push. -/
theorem callPushesOrOverflows : Obligations.CallPushesOrOverflows := by
  intro nnn s
  refine ⟨formNNN_toNat (by decide) nnn, fun hne => ?_, fun h16 => exec_call_of_full nnn h16⟩
  obtain ⟨hsp, hexec⟩ := exec_call_of_room nnn hne
  refine ⟨_, hexec, zextAddr_toNat nnn, rfl, fun j => ?_, rfl, fun _ => rfl⟩
  simp only [Fin.getElem_fin, Vector.getElem_set, eq_comm, State.npc]

/-- Settles O16: both targets are exact numbers. -/
theorem jumpsSetOnlyPc : Obligations.JumpsSetOnlyPc := fun nnn s =>
  ⟨formNNN_toNat (by decide) nnn, formNNN_toNat (by decide) nnn,
    ⟨_, exec_jp s nnn, zextAddr_toNat nnn, rfl, fun _ => rfl⟩,
    ⟨_, exec_jpV0 s nnn, v0Target_toNat s nnn, rfl, fun _ => rfl⟩⟩

/-- Settles O17, by the rules of the two skips. -/
theorem immediateSkips : Obligations.ImmediateSkips := fun x kk s =>
  ⟨formXKK_toNat_weights (by decide) x kk, formXKK_toNat_weights (by decide) x kk,
    ⟨_, exec_seImm s x kk, rfl, rfl, fun _ => rfl⟩,
    ⟨_, exec_sneImm s x kk, rfl, rfl, fun _ => rfl⟩⟩

/-- Settles O18, by the rules of the two skips; x = y is no special case. -/
theorem registerSkips : Obligations.RegisterSkips := fun x y s =>
  ⟨formXYN_toNat_weights (by decide) x y (by decide), formXYN_toNat_weights (by decide) x y (by decide),
    ⟨_, exec_seReg s x y, rfl, rfl, fun _ => rfl⟩,
    ⟨_, exec_sneReg s x y, rfl, rfl, fun _ => rfl⟩⟩

end Sys2Proof.Machine
end

section
/-! SUPPORT. Register loads, arithmetic, logic, index load and random byte (41_alu.md R120 to R141): the results and
flags as numbers, the two ways a cycle of the family writes registers, one rule per instruction, and the obligations
O19 to O27. -/

namespace Sys2Proof.Machine

/-- The opcode of a register pair with the fixed nibbles summed, as the Encoding lines of the 8xyn group write it. -/
theorem formXYN_toNat_base {f n : Nat} (hf : f < 16) (x y : Reg) (hn : n < 16) :
    (formXYN f x y n).toNat = (0x1000 * f + n) + 0x100 * x.val + 0x10 * y.val := by
  rw [formXYN_toNat hf x y hn]
  omega

/-! Results and flags as numbers. -/

section
variable (a b : Byte)

theorem flagByte_decide_toNat (p : Prop) [Decidable p] : (flagByte (decide p)).toNat = if p then 1 else 0 := by
  by_cases h : p <;> simp [flagByte, h]

theorem addResult_toNat : (addResult a b).toNat = (a.toNat + b.toNat) % 256 := BitVec.toNat_ofNat _ _

theorem addCarry_toNat : (addCarry a b).toNat = if a.toNat + b.toNat > 255 then 1 else 0 :=
  flagByte_decide_toNat _

/-- The 256 that the model adds keeps the subtraction exact and does not change it modulo 256 (R131). -/
theorem subResult_toNat : ((subResult a b).toNat : Int) = (a.toNat - b.toNat : Int) % 256 := by
  rw [subResult, trunc8, BitVec.toNat_ofNat]
  omega

theorem subBorrow_toNat : (subBorrow a b).toNat = if a.toNat < b.toNat then 1 else 0 :=
  flagByte_decide_toNat _

theorem shrResult_toNat : (shrResult a).toNat = a.toNat / 2 := by
  have hlt : a.toNat / 2 < 2 ^ 8 := by omega
  rw [shrResult, trunc8, BitVec.toNat_ofNat, Nat.mod_eq_of_lt hlt]

/-- Masking with 1 keeps the number's parity (R132). -/
theorem shrOut_toNat : (shrOut a).toNat = a.toNat % 2 := by
  rw [shrOut, BitVec.toNat_and]
  exact Nat.and_one_is_mod a.toNat

theorem shlResult_toNat : (shlResult a).toNat = a.toNat * 2 % 256 := BitVec.toNat_ofNat _ _

/-- Bit 7 of a byte is its quotient by 128 (R134). -/
theorem shlOut_toNat : (shlOut a).toNat = a.toNat / 128 := by
  have hlt : a.toNat / 128 < 2 ^ 8 := by omega
  rw [shlOut, trunc8, BitVec.toNat_ofNat, Nat.mod_eq_of_lt hlt]

end

/-- No draw is lost in the byte: the environment's answer is at most the mask (R226). -/
theorem State.rndDraw_toNat (s : State) (kk : Byte) :
    (s.rndDraw kk).toNat = (Config.rndDraw s.draws kk).val := by
  have hlt : (Config.rndDraw s.draws kk).val < 2 ^ 8 := by omega
  rw [State.rndDraw, BitVec.toNat_ofNat, Nat.mod_eq_of_lt hlt]

/-! How a cycle of the family ends. -/

/-- The state after a cycle that writes `v` to Vx and no flag. -/
def State.loaded (s : State) (x : Reg) (v : Byte) : State := (s.setReg x v).advance

/-- The state after a cycle that writes the flag `f` to VF and then the result `v` to Vx (R15). -/
def State.flagged (s : State) (f : Byte) (x : Reg) (v : Byte) : State := ((s.setFlag f).setReg x v).advance

section
variable (s : State) (x : Reg) (f v : Byte)

@[simp] theorem State.loaded_reg_dest : (s.loaded x v).reg x = v := by simp [State.loaded]

@[simp] theorem State.flagged_reg_dest : (s.flagged f x v).reg x = v := by simp [State.flagged]

/-- VF keeps the flag unless the result is written over it. -/
theorem State.flagged_reg_vF {x : Reg} (hx : x ≠ 15) : (s.flagged f x v).reg 15 = f := by
  simp [State.flagged, hx.symm, vF]

/-- A cycle that writes Vx changes Vx and pc alone. -/
theorem State.loaded_frame :
    s.sameRegsBut (s.loaded x v) [x] ∧ (s.loaded x v).pc = s.pc + 2 ∧
      s.loaded x v = { s with V := (s.loaded x v).V, pc := (s.loaded x v).pc } ∧ s.sameBytes (s.loaded x v) := by
  refine ⟨fun r hr => ?_, rfl, rfl, fun _ => rfl⟩
  have hx : r ≠ x := by simpa using hr
  simp [State.loaded, hx]

/-- A cycle that writes VF and Vx changes VF, Vx and pc alone. -/
theorem State.flagged_frame :
    s.sameRegsBut (s.flagged f x v) [x, 15] ∧ (s.flagged f x v).pc = s.pc + 2 ∧
      s.flagged f x v = { s with V := (s.flagged f x v).V, pc := (s.flagged f x v).pc } ∧
      s.sameBytes (s.flagged f x v) := by
  refine ⟨fun r hr => ?_, rfl, rfl, fun _ => rfl⟩
  obtain ⟨hx, h15⟩ : r ≠ x ∧ r ≠ 15 := by simpa using hr
  simp [State.flagged, hx, h15, vF]

end

/-! One rule per instruction. -/

section
variable (s : State) (x y : Reg) (kk : Byte)

theorem exec_ldImm : exec (.ldImm x kk) s = .next (s.loaded x kk) := rfl

theorem exec_addImm : exec (.addImm x kk) s = .next (s.loaded x (addResult (s.reg x) kk)) := rfl

theorem exec_ldReg : exec (.ldReg x y) s = .next (s.loaded x (s.reg y)) := rfl

theorem exec_orReg : exec (.orReg x y) s = .next (s.loaded x (s.reg x ||| s.reg y)) := rfl

theorem exec_andReg : exec (.andReg x y) s = .next (s.loaded x (s.reg x &&& s.reg y)) := rfl

theorem exec_xorReg : exec (.xorReg x y) s = .next (s.loaded x (s.reg x ^^^ s.reg y)) := rfl

theorem exec_addReg : exec (.addReg x y) s =
    .next (s.flagged (addCarry (s.reg x) (s.reg y)) x (addResult (s.reg x) (s.reg y))) := rfl

theorem exec_sub : exec (.sub x y) s =
    .next (s.flagged (subBorrow (s.reg x) (s.reg y)) x (subResult (s.reg x) (s.reg y))) := rfl

theorem exec_subn : exec (.subn x y) s =
    .next (s.flagged (subBorrow (s.reg y) (s.reg x)) y (subResult (s.reg y) (s.reg x))) := rfl

theorem exec_shr : exec (.shr x y) s = .next (s.flagged (shrOut (s.reg x)) x (shrResult (s.reg x))) := rfl

theorem exec_shl : exec (.shl x y) s = .next (s.flagged (shlOut (s.reg x)) x (shlResult (s.reg x))) := rfl

theorem exec_ldI (nnn : BitVec 12) : exec (.ldI nnn) s = .next (s.setI (zextAddr nnn)).advance := rfl

theorem exec_rnd : exec (.rnd x kk) s = .next (s.loaded x (s.rndDraw kk)).countDraw := rfl

end

/-! The obligations. -/

/-- Settles O22: the flagged write of the sum and its carry. -/
theorem addRegistersSetsCarry : Obligations.AddRegistersSetsCarry := by
  intro x y s
  refine ⟨formXYN_toNat_base (by decide) x y (by decide), _, exec_addReg s x y, ?_, fun hx => ?_,
    s.flagged_frame x _ _⟩
  · rw [State.flagged_reg_dest, addResult_toNat]
  · rw [State.flagged_reg_vF s _ _ hx, addCarry_toNat]

/-- Settles O23: the flagged write of the difference and its borrow. -/
theorem subtractSetsBorrow : Obligations.SubtractSetsBorrow := by
  intro x y s
  refine ⟨formXYN_toNat_base (by decide) x y (by decide), _, exec_sub s x y, ?_, fun hx => ?_,
    s.flagged_frame x _ _⟩
  · rw [State.flagged_reg_dest, subResult_toNat]
  · rw [State.flagged_reg_vF s _ _ hx, subBorrow_toNat]

/-- Settles O24: the flagged write of the reverse difference and its borrow, with Vy as the destination. -/
theorem reverseSubtractWritesVy : Obligations.ReverseSubtractWritesVy := by
  intro x y s
  refine ⟨formXYN_toNat_base (by decide) x y (by decide), _, exec_subn s x y, ?_, fun hy => ?_,
    s.flagged_frame y _ _⟩
  · rw [State.flagged_reg_dest, subResult_toNat]
  · rw [State.flagged_reg_vF s _ _ hy, subBorrow_toNat]

/-- Settles O25: the flagged write of the shifted value and the bit shifted out, in which y does not occur. -/
theorem shiftsMoveOneBitIntoVf : Obligations.ShiftsMoveOneBitIntoVf := by
  intro x y s
  refine ⟨formXYN_toNat_base (by decide) x y (by decide), formXYN_toNat_base (by decide) x y (by decide),
    fun y' => ⟨?_, ?_⟩, ⟨_, exec_shr s x y, ?_, fun hx => ?_, s.flagged_frame x _ _⟩,
    ⟨_, exec_shl s x y, ?_, fun hx => ?_, s.flagged_frame x _ _⟩⟩
  · rw [exec_shr, exec_shr]
  · rw [exec_shl, exec_shl]
  · rw [State.flagged_reg_dest, shrResult_toNat]
  · rw [State.flagged_reg_vF s _ _ hx, shrOut_toNat]
  · rw [State.flagged_reg_dest, shlResult_toNat]
  · rw [State.flagged_reg_vF s _ _ hx, shlOut_toNat]

/-- Settles O19, by the rules of the two loads. -/
theorem registerLoads : Obligations.RegisterLoads := fun x y kk s =>
  ⟨formXKK_toNat_weights (by decide) x kk, formXYN_toNat_weights (by decide) x y (by decide),
    ⟨_, exec_ldImm s x kk, s.loaded_reg_dest x _, s.loaded_frame x _⟩,
    ⟨_, exec_ldReg s x y, s.loaded_reg_dest x _, s.loaded_frame x _⟩⟩

/-- Settles O20: the sum is written with no flag. -/
theorem addImmediateWrapsWithoutFlag : Obligations.AddImmediateWrapsWithoutFlag := by
  intro x kk s
  refine ⟨formXKK_toNat_weights (by decide) x kk, _, exec_addImm s x kk, ?_, s.loaded_frame x _⟩
  rw [State.loaded_reg_dest, addResult_toNat]

/-- Settles O21: each operation on bytes acts on every bit alone. -/
theorem logicIsBitwiseWithoutFlag : Obligations.LogicIsBitwiseWithoutFlag := by
  intro x y s
  refine ⟨formXYN_toNat_base (by decide) x y (by decide), formXYN_toNat_base (by decide) x y (by decide),
    formXYN_toNat_base (by decide) x y (by decide),
    ⟨_, exec_orReg s x y, fun b _ => ?_, s.loaded_frame x _⟩,
    ⟨_, exec_andReg s x y, fun b _ => ?_, s.loaded_frame x _⟩,
    ⟨_, exec_xorReg s x y, fun b _ => ?_, s.loaded_frame x _⟩⟩
  · rw [State.loaded_reg_dest, BitVec.getLsbD_or]
  · rw [State.loaded_reg_dest, BitVec.getLsbD_and]
  · rw [State.loaded_reg_dest, BitVec.getLsbD_xor]

/-- Settles O26: zero extension keeps the address. -/
theorem loadIndexWritesI : Obligations.LoadIndexWritesI := fun nnn s =>
  ⟨formNNN_toNat (by decide) nnn, _, exec_ldI s nnn, zextAddr_toNat nnn, rfl, rfl, fun _ => rfl⟩

/-- Settles O27: the byte written is the environment's answer, whose type bounds it by the mask; the count of draws adds
nothing to the frame of a load but itself. -/
theorem randomByteIsAtMostTheMask : Obligations.RandomByteIsAtMostTheMask := by
  intro x kk s
  have hdrawn : (s.loaded x (s.rndDraw kk)).countDraw.reg x = s.rndDraw kk := s.loaded_reg_dest x _
  obtain ⟨hregs, -, -, -⟩ := s.loaded_frame x (s.rndDraw kk)
  refine ⟨formXKK_toNat_weights (by decide) x kk, _, exec_rnd s x kk, ?_, ?_, rfl, hregs, rfl, rfl, fun _ => rfl⟩
  · rw [hdrawn, State.rndDraw_toNat]
  · rw [hdrawn, State.rndDraw_toNat]
    exact Nat.le_of_lt_succ (Config.rndDraw s.draws kk).isLt

end Sys2Proof.Machine
end

section
/-! SUPPORT. The clear-screen instruction (42_display.md R154): its rule, and the obligation O28. -/

namespace Sys2Proof.Machine

theorem exec_cls (s : State) : exec .cls s = .next (s.setPix Display.blank).advance := rfl

/-- Settles O28: the cycle leaves the blank display, and neither it nor the advance of pc writes a register or memory. -/
theorem clearScreenUnlightsEveryCell : Obligations.ClearScreenUnlightsEveryCell := by
  intro s
  refine ⟨rfl, _, exec_cls s, fun x y => ?unlit, rfl, rfl, fun _ => rfl⟩
  case unlit => rw [State.advance_pix, State.setPix_pix, Display.cell_blank]

end Sys2Proof.Machine
end

section
/-! SUPPORT. Keypad and delay timer (43_input_timer.md R160 to R163): what a key read answers for each range of its
number, one rule per instruction, and the obligations O31, O32 and O33. -/

namespace Sys2Proof.Machine

/-- The opcode of one register with the fixed nibbles summed, as the Encoding lines of the Exkk and Fxkk groups write
it. -/
theorem formXKK_toNat_base {f kk : Nat} (hf : f < 16) (x : Reg) (hk : kk < 256) :
    (formXKK f x kk).toNat = (0x1000 * f + kk) + 0x100 * x.val := by
  rw [formXKK_toNat hf x hk]
  omega

/-- No key number is lost in the byte. -/
theorem trunc8_key_toNat (k : Fin 16) : (trunc8 k.val).toNat = k.val := by
  have hlt : k.val < 2 ^ 8 := by omega
  rw [trunc8, BitVec.toNat_ofNat, Nat.mod_eq_of_lt hlt]

section
variable {s : State} {v : Byte}

/-- A byte that is the number of a key reads that key (R160). -/
theorem State.keyAt_of_key {k : Fin 16} (hk : v.toNat = k.val) : s.keyAt v = .ok s.key[k] := by
  obtain ⟨_, hread⟩ | ⟨hge, -⟩ := s.keyAt_eq v
  · simp only [hread, hk, Fin.getElem_fin]
  · omega

/-- A byte of 16 or more names no key (R202). -/
theorem State.keyAt_of_ge (hv : 16 ≤ v.toNat) : s.keyAt v = .error (.keyOutOfRange v) := by
  obtain ⟨hlt, -⟩ | ⟨-, hread⟩ := s.keyAt_eq v
  · omega
  · exact hread

end

/-! One rule per instruction, or one per range of the key number or state of the latch. -/

section
variable {s : State} {x : Reg}

/-- Ex9E on a key, by the two targets of R112. -/
theorem exec_skp_of_key {k : Fin 16} (hk : (s.reg x).toNat = k.val) :
    exec (.skp x) s = .next (s.setPc (if s.key[k] = true then s.pc + 4 else s.pc + 2)) := by
  rw [exec, execSkp, State.keyAt_of_key hk, State.commit_eq]
  change Host.Outcome.next (s.skipIf s.key[k]) = _
  rw [State.skipIf_eq, State.npc_add_two, State.npc]

/-- ExA1 on a key, by the two targets of R112. -/
theorem exec_sknp_of_key {k : Fin 16} (hk : (s.reg x).toNat = k.val) :
    exec (.sknp x) s = .next (s.setPc (if s.key[k] = true then s.pc + 2 else s.pc + 4)) := by
  rw [exec, execSknp, State.keyAt_of_key hk, State.commit_eq]
  change Host.Outcome.next (s.skipIf (!s.key[k])) = _
  rw [State.skipIf_eq, State.npc_add_two, State.npc]
  cases s.key[k] <;> rfl

theorem exec_skp_of_ge (hx : 16 ≤ (s.reg x).toNat) :
    exec (.skp x) s = .next (s.takeFault (.keyOutOfRange (s.reg x))) := by
  rw [exec, execSkp, State.keyAt_of_ge hx, State.commit_eq]
  rfl

theorem exec_sknp_of_ge (hx : 16 ≤ (s.reg x).toNat) :
    exec (.sknp x) s = .next (s.takeFault (.keyOutOfRange (s.reg x))) := by
  rw [exec, execSknp, State.keyAt_of_ge hx, State.commit_eq]
  rfl

/-- Fx0A with a key latched is a load that also empties the latch (R163). -/
theorem exec_ldVxK_of_latched {k : Fin 16} (hl : s.latch = some k) :
    exec (.ldVxK x) s = .next ((s.loaded x (trunc8 k.val)).setLatch none) := by
  simp only [exec, execLdVxK, hl]
  rfl

/-- Fx0A with the latch empty: pc goes on and back by two, so the cycle leaves no trace (R163). -/
theorem exec_ldVxK_of_empty (hl : s.latch = none) : exec (.ldVxK x) s = .next s := by
  have hpc : s.npc - 2 = s.pc := BitVec.add_sub_cancel s.pc 2
  simp only [exec, execLdVxK, hl, hpc]
  rfl

variable (s x)

theorem exec_ldVxDT : exec (.ldVxDT x) s = .next (s.loaded x s.DT) := rfl

end

/-! The obligations. -/

/-- Settles O31, by the rules of the two skips for each range of the key number. -/
theorem keySkips : Obligations.KeySkips := fun x _ =>
  ⟨formXKK_toNat_base (by decide) x (by decide), formXKK_toNat_base (by decide) x (by decide),
    fun _ hk => ⟨⟨_, exec_skp_of_key hk, rfl, rfl, fun _ => rfl⟩, ⟨_, exec_sknp_of_key hk, rfl, rfl, fun _ => rfl⟩⟩,
    fun hx => ⟨exec_skp_of_ge hx, exec_sknp_of_ge hx⟩⟩

/-- Settles O32: with a key latched, emptying the latch adds nothing to the frame of a load but itself. -/
theorem keyWaitConsumesOrRepeats : Obligations.KeyWaitConsumesOrRepeats := by
  intro x s
  refine ⟨formXKK_toNat_base (by decide) x (by decide), fun k hl => ?latched, fun hl => exec_ldVxK_of_empty hl⟩
  case latched =>
    have hdest : ((s.loaded x (trunc8 k.val)).setLatch none).reg x = trunc8 k.val := s.loaded_reg_dest x _
    obtain ⟨hregs, -, -, -⟩ := s.loaded_frame x (trunc8 k.val)
    refine ⟨_, exec_ldVxK_of_latched hl, ?_, rfl, hregs, rfl, rfl, fun _ => rfl⟩
    rw [hdest, trunc8_key_toNat]

/-- Settles O33: the instruction is a load of the delay timer. -/
theorem delayTimerIsRead : Obligations.DelayTimerIsRead := fun x s =>
  ⟨formXKK_toNat_base (by decide) x (by decide), _, exec_ldVxDT s x, s.loaded_reg_dest x _, s.loaded_frame x _⟩

end Sys2Proof.Machine
end

section
/-! SUPPORT. The key, pixel and timer ports and the run control (60_exceptions.md R222 to R229, R236): one rule per
operation, and the obligations O55, O56 and O58. -/

namespace Sys2Proof.Machine

/-! The key port, by the range of the key number. -/

section
variable (policy : Config.LatchPolicy) (s : State)

/-- The latch after a release, both policies in one (R225). -/
theorem releaseLatch_eq (k : Fin 16) (l : Option (Fin 16)) :
    releaseLatch policy k l = if policy = .clearIfSame ∧ l = some k then none else l := by
  cases policy <;> simp [releaseLatch]

theorem setKeyStateWith_of_key (k : Fin 16) (pressed : Bool) :
    setKeyStateWith policy k.val pressed s =
      ({ s with
          key := s.key.set k.val pressed
          latch := if pressed then some k else releaseLatch policy k s.latch }, .ok) :=
  dif_pos k.isLt

theorem setKeyStateWith_of_ge {k : Nat} (hk : 16 ≤ k) (pressed : Bool) :
    setKeyStateWith policy k pressed s = (s, .error .outOfRange) := dif_neg hk.not_gt

/-- No key event touches the fault record (R210). -/
theorem setKeyStateWith_fault (k : Nat) (pressed : Bool) : (setKeyStateWith policy k pressed s).1.fault = s.fault := by
  by_cases hk : k < 16
  · rw [setKeyStateWith_of_key policy s ⟨k, hk⟩]
  · rw [setKeyStateWith_of_ge policy s (not_lt.mp hk)]

/-- Reading a key after a key write (R28): the one written, or as before. -/
theorem key_set_getElem (key : Vector Bool 16) (k j : Fin 16) (pressed : Bool) :
    (key.set k.val pressed)[j] = if j = k then pressed else key[j] := by
  simp only [Fin.getElem_fin, Vector.getElem_set, Fin.ext_iff, eq_comm]

theorem perform_isPressed_of_key (k : Fin 16) : perform (.isPressed k.val) s = (s, .bool s.key[k]) :=
  congrArg (s, ·) (dif_pos k.isLt)

theorem perform_isPressed_of_ge {k : Nat} (hk : 16 ≤ k) : perform (.isPressed k) s = (s, .error .outOfRange) :=
  congrArg (s, ·) (dif_neg hk.not_gt)

theorem perform_setKeyState (k : Nat) (pressed : Bool) :
    perform (.setKeyState k pressed) s = setKeyStateWith .clearIfSame k pressed s := rfl

end

/-- Settles O55, by the rules of the key port for each range of the key number. -/
theorem keyEventsSetKeyAndLatch : Obligations.KeyEventsSetKeyAndLatch := by
  intro policy s
  refine ⟨fun k => ⟨⟨_, setKeyStateWith_of_key policy s k true, rfl, ?pressed, rfl⟩,
      ⟨_, setKeyStateWith_of_key policy s k false, releaseLatch_eq policy k s.latch, ?released, rfl⟩,
      perform_isPressed_of_key s k⟩,
    fun k hk => ⟨setKeyStateWith_of_ge policy s hk, perform_isPressed_of_ge s hk⟩,
    perform_setKeyState s, fun _ _ _ => rfl⟩
  case pressed => exact fun j => key_set_getElem s.key k j true
  case released => exact fun j => key_set_getElem s.key k j false

/-! The pixel port. -/

/-- The cell at any integers is the one at their remainders (42_display.md R150). -/
theorem Display.cell_of_emod (d : Display) {x y : Int} {i : Fin 64} {j : Fin 32} (hx : x % 64 = i.val)
    (hy : y % 32 = j.val) : d.cell x y = d[i][j] := by
  have hi : wrapX x = i := Fin.ext (by simp only [wrapX]; omega)
  have hj : wrapY y = j := Fin.ext (by simp only [wrapY]; omega)
  simp only [Display.cell, hi, hj]

/-- Reading a cell after a cell write, by the remainders (R150, R227). -/
theorem Display.cell_put_emod (d : Display) (x y : Int) (on : Bool) (x' y' : Int) :
    (d.put x y on).cell x' y' = if x' % 64 = x % 64 ∧ y' % 32 = y % 32 then on else d.cell x' y' := by
  simp only [Display.cell_put, ← Int.emod_eq_emod_iff_emod_sub_eq_zero, eq_comm (a := x % 64), eq_comm (a := y % 32)]

theorem perform_isPixelSet (x y : Int) (s : State) : perform (.isPixelSet x y) s = (s, .bool (s.pix.cell x y)) := rfl

theorem perform_setPixel (x y : Int) (on : Bool) (s : State) :
    perform (.setPixel x y on) s = (s.setPix (s.pix.put x y on), .ok) := rfl

/-- Settles O56: a query reads the wrapped cell, and a cell write obeys the read-after-write law of the display. -/
theorem pixelPortsWrap : Obligations.PixelPortsWrap := by
  intro s x y on
  refine ⟨fun i j hx hy => ?query, _, perform_setPixel x y on s, rfl, fun x' y' => ?queryAfterSet⟩
  case query => rw [perform_isPixelSet, Display.cell_of_emod s.pix hx hy]
  case queryAfterSet => rw [perform_isPixelSet, State.setPix_pix, Display.cell_put_emod]

/-! The timer port and the run control. -/

section
variable (v : Byte) (s : State)

theorem perform_setDelay : perform (.setDelay v) s = ({ s with DT := v }, .ok) := rfl

theorem perform_setSound : perform (.setSound v) s = ({ s with ST := v }, .ok) := rfl

theorem perform_setRunning (b : Bool) :
    perform (.setRunning b) s = ({ s with run := if b then .running else .stopped }, .ok) := rfl

end

/-- Settles O58, by the rules of the timer port and the run control. -/
theorem timerPortAndRunControl : Obligations.TimerPortAndRunControl := fun s v b =>
  ⟨perform_setDelay v s, perform_setSound v s, rfl, rfl, perform_setRunning s b⟩

end Sys2Proof.Machine
end

section
/-! SUPPORT. Cycles that fault (60_exceptions.md R205, R208): the two ways a cycle may end, and the obligations O7 and
O9. -/

namespace Sys2Proof.Machine

/-! How a cycle ends. -/

/-- A cycle from `s` may leave `t`: either it completed, and fault record and run state are as before, or it faulted,
and nothing but the record is new (R208, R235). -/
def State.CycleEnd (s t : State) : Prop := (t.fault = s.fault ∧ t.run = s.run) ∨ ∃ c, t = s.takeFault c

section
variable (s : State)

theorem State.takeFault_cycleEnd (c : FaultCause) : s.CycleEnd (s.takeFault c) := .inr ⟨c, rfl⟩

theorem State.skipIf_cycleEnd (c : Bool) : s.CycleEnd (s.skipIf c) := .inl ⟨s.skipIf_fault c, s.skipIf_run c⟩

/-- An instruction behind a check ends its cycle in one of the two ways if its effects do, whatever passes the check. -/
theorem State.commit_map_cycleEnd {α : Type} (e : Except FaultCause α) {f : α → State}
    (hf : ∀ a, s.CycleEnd (f a)) : ∃ t, s.commit (e.map f) = .next t ∧ s.CycleEnd t := by
  cases e with
  | error c => exact ⟨_, rfl, s.takeFault_cycleEnd c⟩
  | ok a => exact ⟨_, rfl, hf a⟩

theorem exec_ret_cycleEnd : ∃ t, exec .ret s = .next t ∧ s.CycleEnd t := by
  by_cases h : s.sp = 0
  · exact ⟨_, exec_ret_of_empty h, s.takeFault_cycleEnd _⟩
  · exact ⟨_, exec_ret_of_nonempty h, .inl ⟨rfl, rfl⟩⟩

theorem exec_call_cycleEnd (nnn : BitVec 12) : ∃ t, exec (.call nnn) s = .next t ∧ s.CycleEnd t := by
  by_cases h : s.sp = 16
  · exact ⟨_, exec_call_of_full nnn h, s.takeFault_cycleEnd _⟩
  · obtain ⟨_, hpush⟩ := exec_call_of_room nnn h
    exact ⟨_, hpush, .inl ⟨rfl, rfl⟩⟩

theorem exec_ldVxK_cycleEnd (x : Reg) : ∃ t, exec (.ldVxK x) s = .next t ∧ s.CycleEnd t := by
  cases h : s.latch with
  | none => exact ⟨_, exec_ldVxK_of_empty h, .inl ⟨rfl, rfl⟩⟩
  | some k => exact ⟨_, exec_ldVxK_of_latched h, .inl ⟨rfl, rfl⟩⟩

/-- Every instruction ends its cycle in one of the two ways of R208. -/
theorem exec_cycleEnd (i : Instr) : ∃ t, exec i s = .next t ∧ s.CycleEnd t := by
  cases i
  case ret => exact exec_ret_cycleEnd s
  case call nnn => exact exec_call_cycleEnd s nnn
  case ldVxK x => exact exec_ldVxK_cycleEnd s x
  case seImm | sneImm | seReg | sneReg => exact ⟨_, rfl, s.skipIf_cycleEnd _⟩
  case skp | sknp => exact s.commit_map_cycleEnd _ fun _ => s.skipIf_cycleEnd _
  case drw | ldBVx | storeRegs | loadRegs => exact s.commit_map_cycleEnd _ fun _ => .inl ⟨rfl, rfl⟩
  all_goals exact ⟨_, rfl, .inl ⟨rfl, rfl⟩⟩

end

section
variable {s t : State} {r : FaultRecord}

/-- Without a recorded fault a step answers a next state, which its cycle may leave (R100). -/
theorem step_cycleEnd (hs : s.fault = none) : ∃ t, step s = .next t ∧ s.CycleEnd t := by
  obtain ⟨r, hr, -⟩ | ⟨-, c, -, hstep⟩ | ⟨-, i, -, hstep⟩ := step_cases s
  · exact absurd (hs.symm.trans hr) nofun
  · exact ⟨_, hstep, s.takeFault_cycleEnd c⟩
  · rw [hstep]
    exact exec_cycleEnd s i

theorem step_next_cycleEnd (hs : s.fault = none) (hstep : step s = .next t) : s.CycleEnd t := by
  obtain ⟨u, hu, hend⟩ := step_cycleEnd hs
  cases hu.symm.trans hstep
  exact hend

/-- No cycle touches the run state (R235). -/
theorem State.CycleEnd.run_eq (h : s.CycleEnd t) : t.run = s.run := by
  obtain ⟨-, hrun⟩ | ⟨c, rfl⟩ := h
  · exact hrun
  · rfl

/-- A cycle that newly records a fault took it (R208). -/
theorem State.CycleEnd.of_fault (h : s.CycleEnd t) (hs : s.fault = none) (ht : t.fault = some r) :
    t = { s with fault := some r } ∧ r.fpc = s.pc := by
  obtain ⟨hkept, -⟩ | ⟨c, rfl⟩ := h
  · rw [hkept, hs] at ht
    exact absurd ht nofun
  · cases ht
    exact ⟨rfl, rfl⟩

end

/-- Settles O9: a cycle that completes keeps the fault record, so one that ends with a new record took it. -/
theorem faultsArePrecise : Obligations.FaultsArePrecise := fun _ _ _ hs hstep ht =>
  (step_next_cycleEnd hs hstep).of_fault hs ht

/-! Illegal opcodes. -/

/-- A cycle on an opcode that decodes to nothing takes the fault of R205, whatever meaning the instructions have. -/
theorem cycle_of_decode_error {fx : Bool} {meaning : Instr → State → Outcome} {s : State} {op : Word}
    {e : DecodeError} (hs : s.fault = none) (hpc : s.pc.toNat + 2 ≤ 4096)
    (hop : op = bigEndian (s.mem.read s.pc.toNat) (s.mem.read (s.pc.toNat + 1)))
    (hd : decodeOp fx op = .error e) :
    cycle fx meaning s = .next (s.takeFault (.illegalInstruction op)) := by
  have hfetch : fetchDecodeWith fx s = .error (.illegalInstruction op) := by
    simp only [fetchDecodeWith, memReadPair_eq, if_pos hpc, ← hop, hd]
  simp only [cycle, hs, hfetch, State.raise_eq]

/-- With FX_EXT disabled the seven FX-EXT opcodes are illegal (30_encoding.md R78, 44_fx_extension.md R177). -/
theorem decodeOp_fxExt_disabled {op : Word} (hF : op.toNat / 4096 = 0xF)
    (hkk : op.toNat % 256 ∈ [0x15, 0x18, 0x1E, 0x29, 0x33, 0x55, 0x65]) :
    decodeOp false op = .error (.illegal op) := by
  obtain ⟨hfield, -, -, -, hlow, -⟩ := fields_eq op
  have hfam : fieldF op = 0xF := by rw [hfield, hF]
  simp only [List.mem_cons, List.not_mem_nil, or_false] at hkk
  simp only [decodeOp, hfam, decodeF, hlow]
  obtain h | h | h | h | h | h | h := hkk <;> simp [h, whenFxExt]

/-- Settles O7: fetch answers the opcode at pc, and a cycle on an opcode that decodes to nothing takes the fault. -/
theorem illegalOpcodeFaults : Obligations.IllegalOpcodeFaults := by
  intro s op hs hpc hop
  refine ⟨fun hd => cycle_of_decode_error hs hpc hop hd, fun p =>
    ⟨fun hd => cycle_of_decode_error hs hpc hop hd, fun hfx hF hkk => ?disabled⟩⟩
  case disabled =>
    have hd : decodeOp p.fxExt op = .error (.illegal op) := by rw [hfx, decodeOp_fxExt_disabled hF hkk]
    exact cycle_of_decode_error hs hpc hop hd

end Sys2Proof.Machine
end

section
/-! SUPPORT. A block with a recorded fault (60_exceptions.md R210, R211): the refused operations, and the obligations
O10 and O11. -/

namespace Sys2Proof.Machine

section
variable {s : State} {r : FaultRecord} (hs : s.fault = some r)
include hs

theorem step_of_faulted : step s = .fault (.faulted r) := by
  rw [step, cycle, hs]

theorem perform_execute_of_faulted : perform .execute s = (s, .faulted r) := by
  change executeIn specParams s = _
  rw [executeIn_specParams, step_of_faulted hs]

theorem perform_runFrame_of_faulted (n : Nat) : perform (.runFrame n) s = (s, .faulted r) := by
  change runFrameIn specParams n s = _
  rw [runFrameIn, hs]

/-- No further cycle runs (R210, R211). -/
theorem core_run_of_faulted {k : Nat} {t : State} (hrun : Sys2Proof.core.run k s = .next t) : s = t := by
  cases k with
  | zero => cases hrun; rfl
  | succ k => exact absurd ((core_run_fault (step_of_faulted hs)).symm.trans hrun) nofun

end

/-- Settles O10: execute and run_frame are refused, and the rules of the ports hold in every state. -/
theorem faultedBlockIsRefused : Obligations.FaultedBlockIsRefused := by
  intro s r hs
  refine ⟨step_of_faulted hs, perform_execute_of_faulted hs, perform_runFrame_of_faulted hs,
    (perform_setDelay · s), (perform_setSound · s), (perform_isPixelSet · · s), (perform_setPixel · · · s),
    fun a ha => ⟨?readByte, fun v => ?writeByte⟩,
    fun k => ⟨perform_isPressed_of_key s k, fun p => ?setKeyState⟩⟩
  case readByte => rw [perform_readByte, if_pos ha]
  case writeByte => rw [perform_writeByte, if_pos ha]
  case setKeyState =>
    rw [perform_setKeyState, setKeyStateWith_of_key]
    exact ⟨rfl, (key_set_getElem s.key k k p).trans (if_pos rfl)⟩

/-- A ROM load clears a recorded fault, also where the image is refused (70_reset_and_hazards.md R252). -/
theorem perform_loadRom_fault (bytes : List Byte) (s : State) : (perform (.loadRom bytes) s).1.fault = none := by
  change (loadRomIn specParams bytes s).1.fault = none
  unfold loadRomIn
  split_ifs <;> rfl

/-- No byte write touches the fault record (20_memory.md R63). -/
theorem perform_writeByte_fault (a : Nat) (v : Byte) (s : State) : (perform (.writeByte a v) s).1.fault = s.fault := by
  rw [perform_writeByte]
  split_ifs <;> rfl

/-- Settles O11: reset and a ROM load start from a state without a fault; execute and run_frame are refused, and no
other operation writes the record. -/
theorem onlyResetClearsAFault : Obligations.OnlyResetClearsAFault := by
  intro op s r hs
  cases op
  case reset => rw [perform_reset]; rfl
  case loadRom bytes => exact perform_loadRom_fault bytes s
  case execute => rw [perform_execute_of_faulted hs]; exact hs
  case runFrame n => rw [perform_runFrame_of_faulted hs n]; exact hs
  case setKeyState k p => exact (setKeyStateWith_fault .clearIfSame s k p).trans hs
  case writeByte a v => exact (perform_writeByte_fault a v s).trans hs
  all_goals exact hs

end Sys2Proof.Machine
end

section
/-! SUPPORT. A fault in a frame (60_exceptions.md R231 to R233): a frame's cycles against the run of the machine, and
the obligation O53. -/

namespace Sys2Proof.Machine

section
variable {s t : State} {r : FaultRecord}

/-- A cycle that records no fault lets the frame go on (R231). -/
theorem runCyclesIn_succ_of_ok (n : Nat) (hstep : step s = .next t) (ht : t.fault = none) :
    runCyclesIn specParams (n + 1) s = runCyclesIn specParams n t := by
  simp only [runCyclesIn, executeIn_specParams, hstep, ht]

/-- A cycle that faults is the last of its frame (R233). -/
theorem runCyclesIn_succ_of_fault (n : Nat) (hstep : step s = .next t) (ht : t.fault = some r) :
    runCyclesIn specParams (n + 1) s = (t, .faulted r) := by
  simp only [runCyclesIn, executeIn_specParams, hstep, ht]

/-- Cycles that end at the first fault answer it, and keep the run state. -/
theorem runCyclesIn_of_core_run {k : Nat} : ∀ {n : Nat} {s : State}, s.fault = none → k ≤ n →
    Sys2Proof.core.run k s = .next t → t.fault = some r →
    runCyclesIn specParams n s = (t, .faulted r) ∧ t.run = s.run := by
  induction k with
  | zero =>
    intro n s hs _ hrun ht
    cases hrun
    exact absurd (hs.symm.trans ht) nofun
  | succ k ih =>
    intro n s hs hkn hrun ht
    obtain ⟨m, rfl⟩ : ∃ m, n = m + 1 := ⟨n - 1, by omega⟩
    obtain ⟨u, hstep, hend⟩ := step_cycleEnd hs
    rw [core_run_next hstep] at hrun
    cases hu : u.fault with
    | some r' =>
      obtain rfl : u = t := core_run_of_faulted hu hrun
      exact ⟨runCyclesIn_succ_of_fault m hstep ht, hend.run_eq⟩
    | none =>
      obtain ⟨hcycles, hrunState⟩ := ih hu (Nat.le_of_succ_le_succ hkn) hrun ht
      exact ⟨(runCyclesIn_succ_of_ok m hstep hu).trans hcycles, hrunState.trans hend.run_eq⟩

/-- A frame of a given number of cycles whose cycles fault is those cycles, without the tick (R233). -/
theorem perform_runFrame_of_cycles_faulted {n : Nat} (hs : s.fault = none) (hrun : s.run = .running) (hn : n ≠ 0)
    (hcycles : runCyclesIn specParams n s = (t, .faulted r)) : perform (.runFrame n) s = (t, .faulted r) := by
  change runFrameIn specParams n s = _
  simp only [runFrameIn, hs, hrun, if_neg hn, hcycles, reduceCtorEq, if_false]

end

/-- Settles O53: the frame's cycles stop at the fault, and at least one cycle was run, so the override is not 0. -/
theorem faultEndsTheFrameWithoutTick : Obligations.FaultEndsTheFrameWithoutTick := by
  intro k n s t r hs hrunning hkn hrun ht
  obtain ⟨hcycles, hrunState⟩ := runCyclesIn_of_core_run hs hkn hrun ht
  have hn : n ≠ 0 := by
    rintro rfl
    cases hcycles
  exact ⟨perform_runFrame_of_cycles_faulted hs hrunning hn hcycles, hrunState.trans hrunning⟩

end Sys2Proof.Machine
end

section
/-! SUPPORT. Reset and the ROM load (70_reset_and_hazards.md R250 to R253): what a ROM load answers for each length of
the image, and the obligations O48 and O49. -/

namespace Sys2Proof.Machine

/-! Reading back a run of writes. -/

section
variable {m : Memory} {a : Nat} {vs : List Byte} (hm : m.wf = true) (hlen : a + vs.length ≤ 4096)
include hm hlen

theorem Memory.read_writeList_inside {i : Nat} (hi : i < vs.length) :
    (m.writeList a vs).read (a + i) = vs.getD i 0 := by
  rw [Memory.read_writeList vs (a + i) hm hlen, if_pos (by omega), Nat.add_sub_cancel_left]

theorem Memory.read_writeList_outside {b : Nat} (hb : b < a ∨ a + vs.length ≤ b) :
    (m.writeList a vs).read b = m.read b := by
  rw [Memory.read_writeList vs b hm hlen, if_neg (by omega)]

end

/-- Settles O48: the rule of the host's reset names the state, whose memory lists nothing and whose display is blank. -/
theorem resetSetsEveryItem : Obligations.ResetSetsEveryItem := by
  refine ⟨fun s => ⟨_, perform_reset s, fun r => ?register, rfl, rfl, rfl, fun j => ?stackEntry, rfl, rfl,
    fun k => ?key, rfl, Display.cell_blank, resetByte_eq, rfl, rfl, rfl⟩, perform_reset State.reset⟩
  case register => exact Vector.getElem_replicate r.isLt
  case stackEntry => exact Vector.getElem_replicate j.isLt
  case key => exact Vector.getElem_replicate k.isLt

/-! The three answers of a ROM load, in a block with any parameters. -/

section
variable (p : Config.Params) {bytes : List Byte} (s : State)

theorem performIn_loadRom_of_empty (h : bytes.length = 0) :
    performIn p (.loadRom bytes) s = (hostResetIn p s, .error .romEmpty) := if_pos h

theorem performIn_loadRom_of_tooLarge (h : 3584 < bytes.length) :
    performIn p (.loadRom bytes) s = (hostResetIn p s, .error .romTooLarge) :=
  (if_neg (by omega)).trans (if_pos h)

theorem performIn_loadRom_of_fits (hpos : 0 < bytes.length) (hle : bytes.length ≤ 3584) :
    performIn p (.loadRom bytes) s =
      ({ hostResetIn p s with mem := (hostResetIn p s).mem.writeList 0x200 bytes, run := .running }, .ok) :=
  (if_neg hpos.ne').trans (if_neg hle.not_gt)

end

/-- Settles O49, by the answer of a ROM load for each range of the length; a copied image obeys the read-after-write law
of memory right after reset. -/
theorem loadRomCopiesAndRuns : Obligations.LoadRomCopiesAndRuns := by
  intro bytes s
  refine ⟨performIn_loadRom_of_empty specParams s, performIn_loadRom_of_tooLarge specParams s, fun hpos hle => ?_⟩
  have hmem : (hostResetIn specParams s).mem = State.reset.mem := by rw [hostResetIn_specParams]
  have hload := performIn_loadRom_of_fits specParams s hpos hle
  rw [hmem] at hload
  exact ⟨_, hload, rfl, fun i => Memory.read_writeList_inside Memory.wf_reset (by omega),
    fun a => Memory.read_writeList_outside Memory.wf_reset (by omega), rfl⟩

end Sys2Proof.Machine
end

section
/-! SUPPORT. Decoder and encoder (30_encoding.md R70 to R79): the fields of an opcode built from fields, the opcode built
from its own fields, what each family of the decode tree answers, and the obligations O1, O2, O3 and O4. -/

namespace Sys2Proof.Machine

/-! The fields of an opcode built from fields (R71). -/

section
variable {f : Nat} (hf : f < 16)
include hf

@[simp] theorem fieldF_formNNN (nnn : BitVec 12) : fieldF (formNNN f nnn) = f := by
  obtain ⟨hF, -, -, -, -, -⟩ := fields_eq (formNNN f nnn)
  rw [hF, formNNN_toNat hf]
  omega

@[simp] theorem fieldNNN_formNNN (nnn : BitVec 12) : fieldNNN (formNNN f nnn) = nnn := by
  obtain ⟨-, -, -, -, -, hNNN⟩ := fields_eq (formNNN f nnn)
  apply BitVec.eq_of_toNat_eq
  rw [fieldNNN, hNNN, BitVec.toNat_ofNat, formNNN_toNat hf]
  omega

@[simp] theorem fieldF_formXKK (x : Reg) {kk : Nat} (hk : kk < 256) : fieldF (formXKK f x kk) = f := by
  obtain ⟨hF, -, -, -, -, -⟩ := fields_eq (formXKK f x kk)
  rw [hF, formXKK_toNat hf x hk]
  omega

@[simp] theorem fieldX_formXKK (x : Reg) {kk : Nat} (hk : kk < 256) : fieldX (formXKK f x kk) = x := by
  obtain ⟨-, hX, -, -, -, -⟩ := fields_eq (formXKK f x kk)
  apply Fin.ext
  rw [hX, formXKK_toNat hf x hk]
  omega

@[simp] theorem lowByte_formXKK (x : Reg) {kk : Nat} (hk : kk < 256) : bits (formXKK f x kk) 7 0 = kk := by
  obtain ⟨-, -, -, -, hKK, -⟩ := fields_eq (formXKK f x kk)
  rw [hKK, formXKK_toNat hf x hk]
  omega

@[simp] theorem fieldKK_formXKK (x : Reg) (kk : Byte) : fieldKK (formXKK f x kk.toNat) = kk := by
  rw [fieldKK, lowByte_formXKK hf x kk.isLt, BitVec.ofNat_toNat, BitVec.setWidth_eq]

@[simp] theorem fieldF_formXYN (x y : Reg) {n : Nat} (hn : n < 16) : fieldF (formXYN f x y n) = f := by
  obtain ⟨hF, -, -, -, -, -⟩ := fields_eq (formXYN f x y n)
  rw [hF, formXYN_toNat hf x y hn]
  omega

@[simp] theorem fieldX_formXYN (x y : Reg) {n : Nat} (hn : n < 16) : fieldX (formXYN f x y n) = x := by
  obtain ⟨-, hX, -, -, -, -⟩ := fields_eq (formXYN f x y n)
  apply Fin.ext
  rw [hX, formXYN_toNat hf x y hn]
  omega

@[simp] theorem fieldY_formXYN (x y : Reg) {n : Nat} (hn : n < 16) : fieldY (formXYN f x y n) = y := by
  obtain ⟨-, -, hY, -, -, -⟩ := fields_eq (formXYN f x y n)
  apply Fin.ext
  rw [hY, formXYN_toNat hf x y hn]
  omega

@[simp] theorem lowNibble_formXYN (x y : Reg) {n : Nat} (hn : n < 16) : bits (formXYN f x y n) 3 0 = n := by
  obtain ⟨-, -, -, hN, -, -⟩ := fields_eq (formXYN f x y n)
  rw [hN, formXYN_toNat hf x y hn]
  omega

@[simp] theorem fieldN_formXYN (x y : Reg) (n : Fin 16) : fieldN (formXYN f x y n.val) = n := by
  rw [fieldN, lowNibble_formXYN hf x y n.isLt, Fin.ofNat_val_eq_self]

end

/-- An address of family 0 is its own opcode, so a system call that is not 00E0 or 00EE has another opcode (R75). -/
theorem formNNN_zero_eq_iff (nnn m : BitVec 12) : formNNN 0 nnn = formNNN 0 m ↔ nnn = m := by
  refine ⟨fun h => ?_, congrArg _⟩
  rw [← fieldNNN_formNNN (f := 0) (by decide) nnn, h, fieldNNN_formNNN (by decide)]

/-- Family 0 (R75). -/
theorem decode0_formNNN {nnn : BitVec 12} (hcls : nnn ≠ 0x0E0) (hret : nnn ≠ 0x0EE) :
    decode0 (formNNN 0 nnn) = .sys nnn := by
  have h1 : formNNN 0 nnn ≠ 0x00E0 := mt (formNNN_zero_eq_iff nnn 0x0E0).mp hcls
  have h2 : formNNN 0 nnn ≠ 0x00EE := mt (formNNN_zero_eq_iff nnn 0x0EE).mp hret
  rw [decode0, if_neg h1, if_neg h2, fieldNNN_formNNN (by decide)]

/-- Settles O1: the decode tree finds the family nibble, the fixed nibbles and the operands of each form where the
encoder put them. -/
theorem decodeEncodeRoundTrip : Obligations.DecodeEncodeRoundTrip := by
  intro fx i hwf
  cases i
  case cls | ret => rfl
  case sys nnn =>
    obtain ⟨hcls, hret⟩ : nnn ≠ 0x0E0 ∧ nnn ≠ 0x0EE := by simpa [Instr.wf] using hwf
    simp [encode, decodeOp, decode0_formNNN hcls hret]
  case jp | call | ldI | jpV0 => simp [encode, decodeOp]
  case seImm x kk | sneImm x kk | ldImm x kk | addImm x kk | rnd x kk =>
    simp [encode, decodeOp, kk.isLt]
  case seReg | sneReg => simp [encode, decodeOp]
  case ldReg | orReg | andReg | xorReg | addReg | sub | shr | subn | shl => simp [encode, decodeOp, decode8]
  case drw x y n => simp [encode, decodeOp, n.isLt]
  case skp | sknp => simp [encode, decodeOp, decodeE]
  case ldVxDT | ldVxK => simp [encode, decodeOp, decodeF]
  case ldDTVx | ldSTVx | addIVx | ldFVx | ldBVx | storeRegs | loadRegs =>
    have hfx : fx = true := hwf
    simp [encode, decodeOp, decodeF, whenFxExt, hfx]

/-! An opcode built from its own fields. -/

theorem formNNN_fields (op : Word) : formNNN (fieldF op) (fieldNNN op) = op := by
  obtain ⟨hF, -, -, -, -, hNNN⟩ := fields_eq op
  apply BitVec.eq_of_toNat_eq
  rw [formNNN_toNat (by omega), fieldNNN, BitVec.toNat_ofNat, hF, hNNN]
  omega

theorem formXKK_fields (op : Word) : formXKK (fieldF op) (fieldX op) (bits op 7 0) = op := by
  obtain ⟨hF, hX, -, -, hKK, -⟩ := fields_eq op
  apply BitVec.eq_of_toNat_eq
  rw [formXKK_toNat (by omega) _ (by omega), hF, hX, hKK]
  omega

theorem fieldKK_toNat (op : Word) : (fieldKK op).toNat = bits op 7 0 := by
  obtain ⟨-, -, -, -, hKK, -⟩ := fields_eq op
  rw [fieldKK, BitVec.toNat_ofNat]
  omega

theorem formXYN_fields (op : Word) : formXYN (fieldF op) (fieldX op) (fieldY op) (bits op 3 0) = op := by
  obtain ⟨hF, hX, hY, hN, -, -⟩ := fields_eq op
  apply BitVec.eq_of_toNat_eq
  rw [formXYN_toNat (by omega) _ _ (by omega), hF, hX, hY, hN]
  omega

theorem fieldN_val (op : Word) : (fieldN op).val = bits op 3 0 := by
  obtain ⟨-, -, -, hN, -, -⟩ := fields_eq op
  rw [fieldN, Fin.val_ofNat]
  omega

/-! What the decode tree answers, family by family. -/

/-- The answer `r` on opcode `op` is sound, and is a rejection exactly under the condition `bad`: it rejects `op` under
its own name, or reads it as a well-formed instruction whose opcode it is. -/
def Reads (fx : Bool) (op : Word) (bad : Prop) (r : Except DecodeError Instr) : Prop :=
  (bad ∧ r = .error (.illegal op)) ∨ (¬ bad ∧ ∃ i, r = .ok i ∧ i.wf fx = true ∧ encode i = op)

section
variable {fx : Bool} {op : Word} {bad : Prop}

theorem reads_error (h : bad) : Reads fx op bad (.error (.illegal op)) := .inl ⟨h, rfl⟩

theorem reads_ok {i : Instr} (h : ¬ bad) (hwf : i.wf fx = true) (henc : encode i = op) : Reads fx op bad (.ok i) :=
  .inr ⟨h, i, rfl, hwf, henc⟩

/-- A family read under one condition is read under any other that says the same of this opcode. -/
theorem Reads.congr {bad' : Prop} {r : Except DecodeError Instr} (h : Reads fx op bad r) (hb : bad ↔ bad') :
    Reads fx op bad' r := by
  rwa [Reads, ← hb]

theorem formNNN_of_fieldF {f : Nat} (hF : fieldF op = f) : formNNN f (fieldNNN op) = op := by
  rw [← hF, formNNN_fields]

theorem formXKK_of_fieldF {f : Nat} (hF : fieldF op = f) : formXKK f (fieldX op) (fieldKK op).toNat = op := by
  rw [← hF, fieldKK_toNat, formXKK_fields]

theorem formXKK_of_fields {f kk : Nat} (hF : fieldF op = f) (hKK : bits op 7 0 = kk) : formXKK f (fieldX op) kk = op := by
  rw [← hF, ← hKK, formXKK_fields]

theorem formXYN_of_fields {f n : Nat} (hF : fieldF op = f) (hN : bits op 3 0 = n) :
    formXYN f (fieldX op) (fieldY op) n = op := by
  rw [← hF, ← hN, formXYN_fields]

/-- Family 0 reads every opcode (R75). -/
theorem decode0_reads (hF : fieldF op = 0x0) : Reads fx op False (.ok (decode0 op)) := by
  refine .inr ⟨not_false, _, rfl, ?_⟩
  unfold decode0
  split_ifs with hcls hret
  · exact ⟨rfl, hcls.symm⟩
  · exact ⟨rfl, hret.symm⟩
  · refine ⟨?_, formNNN_of_fieldF hF⟩
    have ne_of {m : BitVec 12} (h : op ≠ formNNN 0 m) : fieldNNN op ≠ m :=
      fun e => h (by rw [← e, formNNN_of_fieldF hF])
    simpa [Instr.wf] using ⟨ne_of hcls, ne_of hret⟩

/-- Family 8 rejects seven low nibbles (R77). -/
theorem decode8_reads (hF : fieldF op = 0x8) :
    Reads fx op (bits op 3 0 ∈ [0x8, 0x9, 0xA, 0xB, 0xC, 0xD, 0xF]) (decode8 op) := by
  obtain ⟨-, -, -, hN, -, -⟩ := fields_eq op
  have hlt : bits op 3 0 < 16 := by omega
  unfold decode8
  split
  case h_10 =>
    refine reads_error ?_
    simp only [imp_false, List.mem_cons, List.not_mem_nil, or_false] at *
    omega
  all_goals
    rename_i hn
    exact reads_ok (by rw [hn]; decide) rfl (formXYN_of_fields hF hn)

/-- Family E reads two low bytes (R78). -/
theorem decodeE_reads (hF : fieldF op = 0xE) : Reads fx op (bits op 7 0 ∉ [0x9E, 0xA1]) (decodeE op) := by
  unfold decodeE
  split
  case h_3 h1 h2 => exact reads_error (by simpa using ⟨h1, h2⟩)
  all_goals
    rename_i hk
    exact reads_ok (by rw [hk]; decide) rfl (formXKK_of_fields hF hk)

/-- An FX-EXT opcode is read exactly in a block with FX_EXT enabled (R177). -/
theorem whenFxExt_reads {i : Instr} (hbad : bad ↔ fx = false) (hwf : i.wf fx = fx) (henc : encode i = op) :
    Reads fx op bad (whenFxExt fx op i) := by
  cases fx with
  | false => exact reads_error (hbad.mpr rfl)
  | true => exact reads_ok (fun h => absurd (hbad.mp h) nofun) hwf henc

/-- Family F reads two low bytes, and with FX_EXT enabled seven more (R78). -/
theorem decodeF_reads (hF : fieldF op = 0xF) :
    Reads fx op (bits op 7 0 ∉ [0x07, 0x0A] ∧ (fx = true → bits op 7 0 ∉ [0x15, 0x18, 0x1E, 0x29, 0x33, 0x55, 0x65]))
      (decodeF fx op) := by
  unfold decodeF
  split
  case h_1 hk | h_2 hk => exact reads_ok (by simp [hk]) rfl (formXKK_of_fields hF hk)
  case h_10 => exact reads_error (by simp_all)
  all_goals
    rename_i hk
    exact whenFxExt_reads (by simp [hk]) rfl (formXKK_of_fields hF hk)

/-- Families 5 and 9 read an opcode whose low nibble is 0 (R76). -/
theorem lowNibbleZero_reads {i : Instr} (hwf : i.wf fx = true) (henc : bits op 3 0 = 0 → encode i = op) :
    Reads fx op (bits op 3 0 ≠ 0) (if bits op 3 0 = 0 then .ok i else .error (.illegal op)) := by
  split_ifs with h
  · exact reads_ok (not_not.mpr h) hwf (henc h)
  · exact reads_error h

end

/-- The opcodes of R74's Illegal arms, in arithmetic (R76, R77, R78). -/
def IllegalWord (fx : Bool) (op : Word) : Prop :=
  ((op.toNat / 4096 = 0x5 ∨ op.toNat / 4096 = 0x9) ∧ op.toNat % 16 ≠ 0) ∨
  (op.toNat / 4096 = 0x8 ∧ op.toNat % 16 ∈ [0x8, 0x9, 0xA, 0xB, 0xC, 0xD, 0xF]) ∨
  (op.toNat / 4096 = 0xE ∧ op.toNat % 256 ∉ [0x9E, 0xA1]) ∨
  (op.toNat / 4096 = 0xF ∧ op.toNat % 256 ∉ [0x07, 0x0A] ∧
    (fx = true → op.toNat % 256 ∉ [0x15, 0x18, 0x1E, 0x29, 0x33, 0x55, 0x65]))

/-- The whole decode tree (R74): every opcode is read soundly, and exactly the Illegal arms are rejected. -/
theorem decodeOp_reads (fx : Bool) (op : Word) : Reads fx op (IllegalWord fx op) (decodeOp fx op) := by
  obtain ⟨hF, -, -, hN, hKK, -⟩ := fields_eq op
  have hfam : fieldF op = op.toNat / 4096 := by omega
  rw [IllegalWord, ← hfam, ← hN, ← hKK]
  unfold decodeOp
  split <;> rename_i hf
  -- Families 0, 5, 8, 9, D, E and F; then those of the form f nnn and of the form f x kk; then no family is left.
  case h_1 => exact (decode0_reads hf).congr (by simp [hf])
  case h_6 | h_10 => exact (lowNibbleZero_reads rfl (formXYN_of_fields hf)).congr (by simp [hf])
  case h_9 => exact (decode8_reads hf).congr (by simp [hf])
  case h_14 => exact reads_ok (by simp [hf]) rfl (formXYN_of_fields hf (fieldN_val op).symm)
  case h_15 => exact (decodeE_reads hf).congr (by simp [hf])
  case h_16 => exact (decodeF_reads hf).congr (by simp [hf])
  case h_2 | h_3 | h_11 | h_12 => exact reads_ok (by simp [hf]) rfl (formNNN_of_fieldF hf)
  case h_4 | h_5 | h_7 | h_8 | h_13 => exact reads_ok (by simp [hf]) rfl (formXKK_of_fieldF hf)
  case h_17 =>
    simp only [imp_false] at *
    omega

/-- Settles O2: what the decode tree reads, it reads soundly. -/
theorem encodeDecodeRoundTrip : Obligations.EncodeDecodeRoundTrip := by
  intro fx op i hdec
  obtain ⟨-, herr⟩ | ⟨-, j, hok, hsound⟩ := decodeOp_reads fx op
  · exact absurd (hdec.symm.trans herr) nofun
  · cases hdec.symm.trans hok
    exact hsound

/-- The decoder rejects an opcode under its own name only (R74). -/
theorem decodeOp_error {fx : Bool} {op : Word} {e : DecodeError} (h : decodeOp fx op = .error e) : e = .illegal op := by
  obtain ⟨-, herr⟩ | ⟨-, j, hok, -⟩ := decodeOp_reads fx op
  · cases h.symm.trans herr
    rfl
  · exact absurd (h.symm.trans hok) nofun

/-- Settles O3: the decode tree rejects exactly the Illegal arms, each under its own name. -/
theorem illegalOpcodesAreExactlyThese : Obligations.IllegalOpcodesAreExactlyThese := by
  intro fx op
  refine ⟨?_, fun e => decodeOp_error⟩
  obtain ⟨hbad, herr⟩ | ⟨hgood, j, hok, -⟩ := decodeOp_reads fx op
  · exact iff_of_true herr hbad
  · exact iff_of_false (fun h => absurd (hok.symm.trans h) nofun) hgood

/-- Settles O4: each of the closed words decodes by evaluation. -/
theorem knownWordsDecode : Obligations.KnownWordsDecode := by
  unfold Obligations.KnownWordsDecode
  and_intros <;> rfl

end Sys2Proof.Machine
end

section
/-! SUPPORT. What a cycle does, said once for every instruction: the effect of an instruction whose own check passes, as
a total function, and `exec` and `step` by their checks and that effect. The obligations O5, O6 and O8. -/

namespace Sys2Proof.Machine

/-! The effect of an instruction. -/

/-- The state after the cycle of `i` from `s`, if the check of `i` passes (`exec_eq`). Where it does not pass, the value
is of no use. -/
def State.effect (s : State) (i : Instr) : State :=
  match i with
  | .cls => (s.setPix Display.blank).advance
  | .ret => { s with pc := s.stack[s.sp.val - 1]'(by have := s.sp.isLt; omega), sp := ⟨s.sp.val - 1, by omega⟩ }
  | .sys nnn => (s.warn (encode (.sys nnn))).advance
  | .jp nnn => s.setPc (zextAddr nnn)
  | .call nnn => { s with pc := zextAddr nnn, stack := s.stack.setIfInBounds s.sp.val s.npc, sp := s.sp + 1 }
  | .seImm x kk => s.setPc (if s.reg x = kk then s.pc + 4 else s.pc + 2)
  | .sneImm x kk => s.setPc (if s.reg x = kk then s.pc + 2 else s.pc + 4)
  | .seReg x y => s.setPc (if s.reg x = s.reg y then s.pc + 4 else s.pc + 2)
  | .sneReg x y => s.setPc (if s.reg x = s.reg y then s.pc + 2 else s.pc + 4)
  | .ldImm x kk => s.loaded x kk
  | .addImm x kk => s.loaded x (addResult (s.reg x) kk)
  | .ldReg x y => s.loaded x (s.reg y)
  | .orReg x y => s.loaded x (s.reg x ||| s.reg y)
  | .andReg x y => s.loaded x (s.reg x &&& s.reg y)
  | .xorReg x y => s.loaded x (s.reg x ^^^ s.reg y)
  | .addReg x y => s.flagged (addCarry (s.reg x) (s.reg y)) x (addResult (s.reg x) (s.reg y))
  | .sub x y => s.flagged (subBorrow (s.reg x) (s.reg y)) x (subResult (s.reg x) (s.reg y))
  | .shr x _ => s.flagged (shrOut (s.reg x)) x (shrResult (s.reg x))
  | .subn x y => s.flagged (subBorrow (s.reg y) (s.reg x)) y (subResult (s.reg y) (s.reg x))
  | .shl x _ => s.flagged (shlOut (s.reg x)) x (shlResult (s.reg x))
  | .ldI nnn => (s.setI (zextAddr nnn)).advance
  | .jpV0 nnn => s.setPc (v0Target s nnn)
  | .rnd x kk => (s.loaded x (s.rndDraw kk)).countDraw
  | .drw x y n => (s.drawSprite (s.reg x) (s.reg y) (s.bytesAtI n.val)).advance
  | .skp x => s.setPc (if s.key[Fin.ofNat 16 (s.reg x).toNat] = true then s.pc + 4 else s.pc + 2)
  | .sknp x => s.setPc (if s.key[Fin.ofNat 16 (s.reg x).toNat] = true then s.pc + 2 else s.pc + 4)
  | .ldVxDT x => s.loaded x s.DT
  | .ldVxK x => { s with
      V := match s.latch with | some k => s.V.set x (trunc8 k.val) | none => s.V
      latch := none
      pc := match s.latch with | some _ => s.pc + 2 | none => s.pc }
  | .ldDTVx x => (s.setDT (s.reg x)).advance
  | .ldSTVx x => (s.setST (s.reg x)).advance
  | .addIVx x => (s.setI (trunc16 (s.I.toNat + (s.reg x).toNat))).advance
  | .ldFVx x => (s.setI (glyphAddr fontBase (s.reg x))).advance
  | .ldBVx x => (s.setMem (s.mem.writeList s.I.toNat (bcdDigits (s.reg x)))).advance
  | .storeRegs x => (s.setMem (s.mem.writeList s.I.toNat (regsUpTo s x))).advance
  | .loadRegs x => { s with V := setRegs s.V 0 (s.bytesAtI (x.val + 1)) }.advance

section
variable (s : State)

/-- The bytes a checked read answers are the bytes at I one by one (R53). -/
theorem State.readList_at_I (n : Nat) : s.mem.readList s.I.toNat n = s.bytesAtI n := s.mem.readList_eq_map n s.I.toNat

@[simp] theorem State.bytesAtI_length (n : Nat) : (s.bytesAtI n).length = n := by
  rw [← State.readList_at_I, Memory.readList_length]

theorem State.bytesAtI_getD {n i : Nat} (hi : i < n) : (s.bytesAtI n).getD i 0 = s.mem.read (s.I.toNat + i) := by
  rw [List.getD_eq_getElem _ _ (by simpa using hi)]
  simp [State.bytesAtI]

/-- How the cycle of an instruction ends: in the fault of its own check, or in its effect. -/
def State.ending (i : Instr) : State := match instrFault i s with | some c => s.takeFault c | none => s.effect i

theorem State.ending_of_fault {i : Instr} {c : FaultCause} (h : instrFault i s = some c) : s.ending i = s.takeFault c := by
  simp only [State.ending, h]

theorem State.ending_of_passed {i : Instr} (h : instrFault i s = none) : s.ending i = s.effect i := by
  simp only [State.ending, h]

/-- What an instruction with one check `q` answers is known from the two sides of that check. -/
theorem eq_ending_of_check {i : Instr} {o : Outcome} {q : Prop} {_ : Decidable q} {c : FaultCause}
    (hcheck : instrFault i s = if q then some c else none) (hfault : q → o = .next (s.takeFault c))
    (hpass : ¬ q → o = .next (s.effect i)) : o = .next (s.ending i) := by
  by_cases hq : q
  · rw [hfault hq, State.ending_of_fault s (hcheck.trans (if_pos hq))]
  · rw [hpass hq, State.ending_of_passed s (hcheck.trans (if_neg hq))]

theorem exec_ret_eq : exec .ret s = .next (s.ending .ret) :=
  eq_ending_of_check s rfl exec_ret_of_empty exec_ret_of_nonempty

/-- With room on the stack, the push of `exec_call_of_room` is the one of `State.effect`, which has no bound to prove. -/
theorem exec_call_eq (nnn : BitVec 12) : exec (.call nnn) s = .next (s.ending (.call nnn)) := by
  refine eq_ending_of_check s rfl (exec_call_of_full nnn) fun h => ?_
  obtain ⟨hsp, hexec⟩ := exec_call_of_room nnn h
  have hstack : s.stack.setIfInBounds s.sp.val s.npc = s.stack.set s.sp.val s.npc :=
    Vector.ext fun j hj => by rw [Vector.getElem_setIfInBounds hj, Vector.getElem_set]
  have hinc : s.sp + 1 = ⟨s.sp.val + 1, by omega⟩ := Fin.ext (Nat.mod_eq_of_lt (Nat.succ_lt_succ hsp))
  simp only [hexec, State.effect, hstack, hinc]

/-- A key number below 16 is the one `State.effect` reads, which has no bound to prove. -/
theorem key_ofNat_val {v : Byte} (h : ¬ 16 ≤ v.toNat) : v.toNat = (Fin.ofNat 16 v.toNat).val := by
  rw [Fin.val_ofNat]
  omega

theorem exec_skp_eq (x : Reg) : exec (.skp x) s = .next (s.ending (.skp x)) :=
  eq_ending_of_check s rfl exec_skp_of_ge fun h => exec_skp_of_key (key_ofNat_val h)

theorem exec_sknp_eq (x : Reg) : exec (.sknp x) s = .next (s.ending (.sknp x)) :=
  eq_ending_of_check s rfl exec_sknp_of_ge fun h => exec_sknp_of_key (key_ofNat_val h)

theorem exec_ldVxK_eq (x : Reg) : exec (.ldVxK x) s = .next (s.ending (.ldVxK x)) := by
  rw [State.ending_of_passed s rfl]
  cases h : s.latch with
  | none =>
    have hsame : s.effect (.ldVxK x) = { s with latch := none } := by simp only [State.effect, h]
    rw [exec_ldVxK_of_empty h, hsame, ← h]
  | some k =>
    rw [exec_ldVxK_of_latched h]
    simp only [State.effect, h]
    rfl

/-- A meaning behind a bounds check `p` of the bytes at I ends in the fault of R201 or passes the bytes on (R52). -/
theorem commit_eq_ending_of_bounds {α : Type} {i : Instr} {p q : Prop} {_ : Decidable p} {_ : Decidable q} {a : α}
    {f : α → State}
    (hcheck : instrFault i s = if q then some (.memoryOutOfRange (max s.I.toNat 4096)) else none) (hqp : q ↔ ¬ p)
    (heffect : f a = s.effect i) :
    s.commit ((if p then .ok a else .error (.memoryOutOfRange (max s.I.toNat 4096)) : Except FaultCause α).map f) =
      .next (s.ending i) := by
  refine eq_ending_of_check s hcheck (fun hq => ?_) fun hq => ?_
  · rw [if_neg (hqp.mp hq)]
    rfl
  · rw [if_pos (not_not.mp (mt hqp.mpr hq)), ← heffect]
    rfl

theorem exec_drw_eq (x y : Reg) (n : Fin 16) : exec (.drw x y n) s = .next (s.ending (.drw x y n)) := by
  rw [exec, execDrw, memReadBytes_eq, State.readList_at_I]
  exact commit_eq_ending_of_bounds s rfl (by omega) rfl

theorem exec_ldBVx_eq (x : Reg) : exec (.ldBVx x) s = .next (s.ending (.ldBVx x)) := by
  rw [exec, execLdBVx, storeAtI, memWriteBytes_eq, bcdDigits_length]
  exact commit_eq_ending_of_bounds s rfl (by omega) rfl

theorem exec_storeRegs_eq (x : Reg) : exec (.storeRegs x) s = .next (s.ending (.storeRegs x)) := by
  rw [exec, execStoreRegs, storeAtI, memWriteBytes_eq, regsUpTo_length]
  exact commit_eq_ending_of_bounds s rfl (by omega) rfl

theorem exec_loadRegs_eq (x : Reg) : exec (.loadRegs x) s = .next (s.ending (.loadRegs x)) := by
  rw [exec, execLoadRegs, memReadBytes_eq, State.readList_at_I]
  exact commit_eq_ending_of_bounds s rfl (by omega) rfl

/-- Every instruction ends its cycle in the fault of its own check, or in its effect (R100, R207). -/
theorem exec_eq (i : Instr) : exec i s = .next (s.ending i) := by
  cases i
  case ret => exact exec_ret_eq s
  case call nnn => exact exec_call_eq s nnn
  case seImm x kk => exact exec_seImm s x kk
  case sneImm x kk => exact exec_sneImm s x kk
  case seReg x y => exact exec_seReg s x y
  case sneReg x y => exact exec_sneReg s x y
  case sys nnn => exact exec_sys s nnn
  case skp x => exact exec_skp_eq s x
  case sknp x => exact exec_sknp_eq s x
  case ldVxK x => exact exec_ldVxK_eq s x
  case drw x y n => exact exec_drw_eq s x y n
  case loadRegs x => exact exec_loadRegs_eq s x
  case ldBVx x => exact exec_ldBVx_eq s x
  case storeRegs x => exact exec_storeRegs_eq s x
  all_goals rfl

/-- No instruction that passes its check touches the fault record (R208). -/
@[simp] theorem State.effect_fault (i : Instr) : (s.effect i).fault = s.fault := by cases i <;> rfl

end

/-! The cycle. -/

section
variable {s : State}

/-- The state after a cycle from a state without a recorded fault: the fault of fetch and decode, or how the instruction
ends (R100, R207). -/
def State.stepped (s : State) : State :=
  match fetchDecode s with
  | .error c => s.takeFault c
  | .ok i => s.ending i

theorem step_eq_stepped (hs : s.fault = none) : step s = .next s.stepped := by
  obtain ⟨r, hr, -⟩ | ⟨-, c, hfetch, hstep⟩ | ⟨-, i, hfetch, hstep⟩ := step_cases s
  · exact absurd (hs.symm.trans hr) nofun
  · simp only [hstep, State.stepped, hfetch]
  · simp only [hstep, State.stepped, hfetch, exec_eq]

/-- A step answers a next state exactly where no fault is recorded, and then the one of its cycle (R211). -/
theorem step_eq_next_iff {t : State} : step s = .next t ↔ s.fault = none ∧ s.stepped = t := by
  cases hs : s.fault with
  | none => simp [step_eq_stepped hs]
  | some r => simp [step_of_faulted hs]

theorem cycle_of_decode {fx : Bool} {meaning : Instr → State → Outcome} {i : Instr} (hs : s.fault = none)
    (hpc : s.pc.toNat + 2 ≤ 4096)
    (hd : decodeOp fx (bigEndian (s.mem.read s.pc.toNat) (s.mem.read (s.pc.toNat + 1))) = .ok i) :
    cycle fx meaning s = meaning i s := by
  have hfetch : fetchDecodeWith fx s = .ok i := by
    simp only [fetchDecodeWith, memReadPair_eq, if_pos hpc, hd]
  simp only [cycle, hs, hfetch]

/-- A cycle on the two bytes of a well-formed instruction performs it, whatever meaning the instructions have. -/
theorem cycle_of_encode {fx : Bool} {meaning : Instr → State → Outcome} {i : Instr} (hs : s.fault = none)
    (hpc : s.pc.toNat + 2 ≤ 4096) (hhi : s.mem.read s.pc.toNat = hiByte (encode i))
    (hlo : s.mem.read (s.pc.toNat + 1) = loByte (encode i)) (hwf : i.wf fx = true) :
    cycle fx meaning s = meaning i s :=
  cycle_of_decode hs hpc (by rw [hhi, hlo, bigEndian_opBytes, decodeEncodeRoundTrip fx i hwf])

/-- A fetch past the end of memory (R102). -/
theorem fetchDecode_of_out (h : 0xFFF ≤ s.pc.toNat) :
    fetchDecode s = .error (.memoryOutOfRange (max s.pc.toNat 4096)) := by
  obtain ⟨-, hfetch⟩ | ⟨hin, -⟩ := fetchDecodeWith_cases Config.fxExt s
  · exact hfetch
  · omega

end

/-! The obligations. -/

/-- Settles O5: the decoder reads back the instruction, and Fx29 alone depends on FONT_BASE. -/
theorem stepRunsTheInstructionAtPc : Obligations.StepRunsTheInstructionAtPc := fun s _ hs hpc hhi hlo =>
  ⟨cycle_of_encode hs hpc hhi hlo, fun _ hwf => ⟨cycle_of_encode hs hpc hhi hlo hwf, fun h => execIn_eq_exec h s⟩⟩

/-- Settles O6: the bounds check of the fetch names the lowest address out of memory. -/
theorem fetchPastTheEndFaults : Obligations.FetchPastTheEndFaults := by
  intro s hs h
  have haddr : (if s.pc.toNat = 0xFFF then 0x1000 else s.pc.toNat) = max s.pc.toNat 4096 := by
    split_ifs <;> omega
  rw [step_eq_stepped hs, State.stepped, fetchDecode_of_out h, haddr]
  rfl

/-- The fault of an instruction's own check is the one its cycle ends with. -/
theorem State.ending_fault {s : State} (hs : s.fault = none) (i : Instr) :
    (s.ending i).fault = (instrFault i s).map fun c => ⟨c, s.pc⟩ := by
  cases h : instrFault i s with
  | none => rw [s.ending_of_passed h, State.effect_fault, hs, Option.map_none]
  | some c => rw [s.ending_of_fault h, State.takeFault_fault, Option.map_some]

/-- Settles O8: bounds, decode and the instruction's own check are the three places of a cycle that fault, in this
order. -/
theorem cycleFaultsExactlyByPriority : Obligations.CycleFaultsExactlyByPriority := by
  intro s hs
  refine ⟨_, step_eq_stepped hs, ?_⟩
  unfold State.stepped cycleFault
  obtain ⟨hout, hfetch⟩ | ⟨hin, op, rfl, ⟨e, hdec, hfetch⟩ | ⟨i, hdec, hfetch⟩⟩ := fetchDecodeWith_cases Config.fxExt s
  case inl =>
    have hpc : 0xFFF ≤ s.pc.toNat := by omega
    simp [fetchDecode, hfetch, hpc]
  case inr.inl =>
    have hpc : ¬ 0xFFF ≤ s.pc.toNat := by omega
    cases decodeOp_error hdec
    simp [fetchDecode, hfetch, hpc, hdec]
  case inr.inr =>
    have hpc : ¬ 0xFFF ≤ s.pc.toNat := by omega
    simp [fetchDecode, hfetch, hpc, hdec, State.ending_fault hs]

end Sys2Proof.Machine
end

section
/-! SUPPORT. A call and its return, and the draw (40_control.md R106, 42_display.md R150 to R153): what a draw does to
the display and to VF, and the obligations O15, O29 and O30. -/

namespace Sys2Proof.Machine

section
variable {s : State} {i : Instr}

theorem exec_of_passed (h : instrFault i s = none) : exec i s = .next (s.effect i) := by
  rw [exec_eq, s.ending_of_passed h]

theorem exec_of_fault {c : FaultCause} (h : instrFault i s = some c) : exec i s = .next (s.takeFault c) := by
  rw [exec_eq, s.ending_of_fault h]

end

/-- Settles O15: the return reads the entry that the call has pushed. -/
theorem callThenReturnComesBack : Obligations.CallThenReturnComesBack := by
  intro nnn s hne
  obtain ⟨hsp, hcall⟩ := exec_call_of_room nnn hne
  refine ⟨_, hcall, fun t' hstack hsp' => ?_⟩
  have hval : t'.sp.val = s.sp.val + 1 := congrArg Fin.val hsp'
  have hpos : t'.sp ≠ 0 := Fin.ne_of_val_ne (by rw [hval]; exact Nat.succ_ne_zero _)
  refine ⟨_, exec_ret_of_nonempty hpos, ?_, Fin.ext (Nat.sub_eq_of_eq_add hval)⟩
  simp only [hstack, hval, Nat.add_sub_cancel, Vector.getElem_set_self, State.npc]

/-! The draw. -/

theorem flagByte_eq_one_iff (c : Bool) : flagByte c = 1 ↔ c = true := by cases c <;> decide

theorem flagByte_eq_zero_or_one (c : Bool) : flagByte c = 0 ∨ flagByte c = 1 := by cases c <;> decide

section
variable (s : State) (x y : Reg) (n : Fin 16)

/-- Every register after a draw: VF says whether the compositing hit a lit cell, and no other is written (R153). -/
theorem effect_drw_reg (r : Reg) :
    (s.effect (.drw x y n)).reg r =
      if r = 15 then flagByte (s.pix.composite (s.reg x).toNat (s.reg y).toNat (s.bytesAtI n.val)).2 else s.reg r :=
  State.setFlag_reg _ _ r

/-- Every cell after a draw, wherever the origin (R150, R152). -/
theorem effect_drw_cell (X Y : Int) :
    (s.effect (.drw x y n)).pix.cell X Y =
      (s.pix.cell X Y != spriteBit (s.reg x).toNat (s.reg y).toNat (s.bytesAtI n.val) X Y) :=
  s.pix.composite_cell _ _ _ (by rw [State.bytesAtI_length]; omega) X Y

/-- VF after a draw (R152, R153). -/
theorem effect_drw_reg_vF_eq_one_iff :
    (s.effect (.drw x y n)).reg 15 = 1 ↔ ∃ X Y : Int,
      spriteBit (s.reg x).toNat (s.reg y).toNat (s.bytesAtI n.val) X Y = true ∧ s.pix.cell X Y = true := by
  rw [effect_drw_reg, if_pos rfl, flagByte_eq_one_iff]
  exact s.pix.composite_hit _ _ _ (by rw [State.bytesAtI_length]; omega)

variable {s n}

theorem exec_drw_of_inside (h : n.val = 0 ∨ s.I.toNat + n.val - 1 < 4096) :
    exec (.drw x y n) s = .next (s.effect (.drw x y n)) := exec_of_passed (if_neg (by omega))

theorem exec_drw_of_outside (hn : n.val ≠ 0) (h : 4096 ≤ s.I.toNat + n.val - 1) :
    exec (.drw x y n) s = .next (s.takeFault (.memoryOutOfRange (max s.I.toNat 4096))) :=
  exec_of_fault (if_pos (by omega))

end

/-- Settles O29: a draw whose bytes are in memory ends in its effect, of which the laws of the display say every cell and
the collision. -/
theorem drawTogglesTheSpriteCells : Obligations.DrawTogglesTheSpriteCells := by
  intro x y n s
  refine ⟨?encoding, fun hin => ⟨_, exec_drw_of_inside x y hin, effect_drw_cell s x y n, ?flag,
    effect_drw_reg_vF_eq_one_iff s x y n, fun r hr => ?others, rfl, rfl, fun _ => rfl⟩, exec_drw_of_outside x y⟩
  case encoding =>
    rw [encode, formXYN_toNat (by decide) x y n.isLt]
    omega
  case flag =>
    rw [effect_drw_reg, if_pos rfl]
    exact flagByte_eq_zero_or_one _
  case others => rw [effect_drw_reg, if_neg (by simpa using hr)]

/-- Settles O30: the two draws toggle the same cells, and the second hits a cell that is lit after the first, which is one
under the sprite that was not lit before. -/
theorem drawingTwiceRestoresTheDisplay : Obligations.DrawingTwiceRestoresTheDisplay := by
  intro x y n s hin
  refine ⟨_, exec_drw_of_inside x y hin, fun t' hpix hmem hI hx hy => ?_⟩
  have hbytes : t'.bytesAtI n.val = s.bytesAtI n.val := by simp only [State.bytesAtI, hmem, hI]
  refine ⟨_, exec_drw_of_inside x y (by rwa [hI]), fun X Y => ?restored, ?hit⟩
  case restored =>
    rw [effect_drw_cell, hpix, effect_drw_cell, hbytes, hx, hy, Bool.bne_assoc, bne_self_eq_false, Bool.bne_false]
  case hit =>
    rw [effect_drw_reg_vF_eq_one_iff, hbytes, hx, hy, hpix]
    refine exists_congr fun X => exists_congr fun Y => and_congr_right fun hbit => ?_
    rw [effect_drw_cell, hbit]
    cases s.pix.cell X Y <;> decide

end Sys2Proof.Machine
end

section
/-! SUPPORT. FX-EXT (44_fx_extension.md R170 to R176): the results as numbers, what a store at I leaves in memory and
what a load from I leaves in the registers, and the obligations O34 to O40. -/

namespace Sys2Proof.Machine

/-! Results as numbers. -/

/-- Fx29's address is exact wherever the font is in memory (R173). -/
theorem glyphAddr_toNat {base : Nat} (hbase : base + 80 ≤ 4096) (v : Byte) :
    (glyphAddr base v).toNat = base + 5 * (v.toNat % 16) := by
  have hlow : (v &&& 0x0F).toNat = v.toNat % 16 := by
    rw [BitVec.toNat_and]
    exact Nat.and_two_pow_sub_one_eq_mod v.toNat 4
  have hlt : base + 5 * (v.toNat % 16) < 2 ^ 16 := by omega
  rw [glyphAddr, trunc16, hlow, BitVec.toNat_ofNat, Nat.mod_eq_of_lt hlt]

theorem trunc8_toNat {k : Nat} (hk : k < 256) : (trunc8 k).toNat = k := by
  rw [trunc8, BitVec.toNat_ofNat, Nat.mod_eq_of_lt hk]

/-! Stores and loads at I. -/

section
variable (s : State) (x : Reg)

theorem exec_ldBVx_of_inside (h : s.I.toNat + 2 < 4096) :
    exec (.ldBVx x) s = .next (s.setMem (s.mem.writeList s.I.toNat (bcdDigits (s.reg x)))).advance :=
  exec_of_passed (if_neg h.not_ge)

theorem exec_storeRegs_of_inside (h : s.I.toNat + x.val < 4096) :
    exec (.storeRegs x) s = .next (s.setMem (s.mem.writeList s.I.toNat (regsUpTo s x))).advance :=
  exec_of_passed (if_neg h.not_ge)

theorem exec_loadRegs_of_inside (h : s.I.toNat + x.val < 4096) :
    exec (.loadRegs x) s = .next (s.effect (.loadRegs x)) := exec_of_passed (if_neg h.not_ge)

variable {s x}

/-- Vi, read back from where Fx55 stores it (R175). -/
theorem read_storeRegs (hwf : s.mem.wf = true) (h : s.I.toNat + x.val < 4096) {i : Nat} (hi : i ≤ x.val) :
    (s.mem.writeList s.I.toNat (regsUpTo s x)).read (s.I.toNat + i) = s.reg ⟨i, by omega⟩ := by
  have hlen := regsUpTo_length s x
  rw [Memory.read_writeList_inside hwf (by omega) (by omega), regsUpTo_getD s x i hi]

/-- The registers after Fx65 (R176). -/
theorem effect_loadRegs_reg (i : Reg) :
    (s.effect (.loadRegs x)).reg i = if i ≤ x then s.mem.read (s.I.toNat + i.val) else s.reg i := by
  change (setRegs s.V 0 (s.bytesAtI (x.val + 1)))[i.val] = _
  rw [setRegs_getElem, State.bytesAtI_length]
  by_cases h : i ≤ x
  · have hi : i.val < x.val + 1 := Nat.lt_succ_of_le h
    rw [if_pos (by omega), if_pos h, Nat.sub_zero, State.bytesAtI_getD s hi]
  · have hi : ¬ i.val < x.val + 1 := fun hlt => h (Nat.le_of_lt_succ hlt)
    rw [if_neg (by omega), if_neg h]
    rfl

end

/-! The obligations. -/

/-- Settles O34: each timer is written with Vx, and nothing else is. -/
theorem timersAreWritten : Obligations.TimersAreWritten := fun x s =>
  ⟨formXKK_toNat_base (by decide) x (by decide), formXKK_toNat_base (by decide) x (by decide),
    ⟨_, exec_eq s (.ldDTVx x), rfl, rfl, rfl, fun _ => rfl⟩,
    ⟨_, exec_eq s (.ldSTVx x), rfl, rfl, rfl, fun _ => rfl⟩⟩

/-- Settles O35: the sum is taken modulo 2^16, and a glyph's address is exact. -/
theorem indexArithmetic : Obligations.IndexArithmetic := by
  intro x s
  refine ⟨formXKK_toNat_base (by decide) x (by decide), formXKK_toNat_base (by decide) x (by decide),
    ⟨_, exec_eq s (.addIVx x), BitVec.toNat_ofNat _ _, rfl, rfl, fun _ => rfl⟩,
    ⟨_, exec_eq s (.ldFVx x), ?_, rfl, rfl, fun _ => rfl⟩,
    fun base hbase => ⟨_, rfl, glyphAddr_toNat hbase (s.reg x), rfl, rfl, fun _ => rfl⟩⟩
  exact (glyphAddr_toNat (base := fontBase) (by decide) (s.reg x)).trans (Nat.zero_add _)

/-- Settles O36: the three digits are the run of bytes written, and each of them fits a byte. -/
theorem decimalStoreWritesThreeDigits : Obligations.DecimalStoreWritesThreeDigits := by
  intro x s hwf
  refine ⟨formXKK_toNat_base (by decide) x (by decide), fun hin => ?_, fun hout => exec_of_fault (if_pos hout)⟩
  have hlen := bcdDigits_length (s.reg x)
  have hdigit {i : Nat} (hi : i < 3) := Memory.read_writeList_inside (vs := bcdDigits (s.reg x)) (i := i) hwf
    (a := s.I.toNat) (by omega) (by omega)
  have hv : (s.reg x).toNat < 256 := (s.reg x).isLt
  refine ⟨_, exec_ldBVx_of_inside s x hin, ?hundreds, ?tens, ?units,
    fun a ha => Memory.read_writeList_outside hwf (by omega) (by omega), rfl, rfl⟩
  case hundreds => exact (congrArg BitVec.toNat (hdigit (i := 0) (by decide))).trans (trunc8_toNat (by omega))
  case tens => exact (congrArg BitVec.toNat (hdigit (i := 1) (by decide))).trans (trunc8_toNat (by omega))
  case units => exact (congrArg BitVec.toNat (hdigit (i := 2) (by decide))).trans (trunc8_toNat (by omega))

/-- Settles O37: the registers are the run of bytes written. -/
theorem storeRegistersWritesV0ToVx : Obligations.StoreRegistersWritesV0ToVx := by
  intro x s hwf
  have hlen := regsUpTo_length s x
  refine ⟨formXKK_toNat_base (by decide) x (by decide), fun hin => ?_, fun hout => exec_of_fault (if_pos hout)⟩
  exact ⟨_, exec_storeRegs_of_inside s x hin, fun i hi => read_storeRegs hwf hin hi,
    fun a ha => Memory.read_writeList_outside hwf (by omega) (by omega), rfl, rfl⟩

/-- Settles O38: the bytes read are written to the registers from V0 up. -/
theorem loadRegistersReadsV0ToVx : Obligations.LoadRegistersReadsV0ToVx := fun x s =>
  ⟨formXKK_toNat_base (by decide) x (by decide),
    fun hin => ⟨_, exec_loadRegs_of_inside s x hin, effect_loadRegs_reg, rfl, rfl, fun _ => rfl⟩,
    fun hout => exec_of_fault (if_pos hout)⟩

/-- Settles O39: a load reads each register's byte where the store has put it. -/
theorem storeThenLoadGivesRegistersBack : Obligations.StoreThenLoadGivesRegistersBack := by
  intro x s hwf hin
  refine ⟨_, exec_storeRegs_of_inside s x hin, fun t' hmem hI => ?_⟩
  have hI' : t'.I = s.I := hI
  refine ⟨_, exec_loadRegs_of_inside t' x (by rwa [hI']), fun i hi => ?_⟩
  rw [effect_loadRegs_reg, if_pos hi, hmem, hI']
  exact read_storeRegs hwf hin hi

/-- Settles O40: V0 and V1 are stored where the next cycle fetches. -/
theorem storedOpcodeIsFetchedNext : Obligations.StoredOpcodeIsFetchedNext := by
  intro x s i hwf hs hi hx hin hI hhi hlo
  refine ⟨_, exec_storeRegs_of_inside s x hin, ?_⟩
  have hpc : s.npc = s.I := hI.symm
  refine cycle_of_encode hs ?bounds ?hi ?lo hi
  all_goals simp only [State.advance_pc, State.advance_mem, State.setMem_npc, State.setMem_mem, hpc]
  case bounds => omega
  case hi => exact (read_storeRegs hwf hin (i := 0) (Nat.zero_le _)).trans hhi
  case lo => exact (read_storeRegs hwf hin hx).trans hlo

end Sys2Proof.Machine
end

section
/-! SUPPORT. Which instructions write which state (10_state.md R20 to R33, 40_control.md R113), and the obligations O41
and O42. -/

namespace Sys2Proof.Machine

/-! Each item of the state is as before in the effect of every instruction but those named. -/

section
variable (s : State) (i : Instr)

theorem State.effect_key : (s.effect i).key = s.key := by cases i <;> rfl

theorem State.effect_run : (s.effect i).run = s.run := by cases i <;> rfl

theorem State.effect_I : (s.effect i).I ≠ s.I → (∃ nnn, i = .ldI nnn) ∨ ∃ x, i = .addIVx x ∨ i = .ldFVx x := by
  cases i
  case ldI nnn => exact fun _ => .inl ⟨nnn, rfl⟩
  case addIVx x => exact fun _ => .inr ⟨x, .inl rfl⟩
  case ldFVx x => exact fun _ => .inr ⟨x, .inr rfl⟩
  all_goals exact absurd rfl

theorem State.effect_stack :
    (s.effect i).sp ≠ s.sp ∨ (s.effect i).stack ≠ s.stack → i = .ret ∨ ∃ nnn, i = .call nnn := by
  cases i
  case ret => exact fun _ => .inl rfl
  case call nnn => exact fun _ => .inr ⟨nnn, rfl⟩
  all_goals exact Or.rec (absurd rfl) (absurd rfl)

theorem State.effect_DT : (s.effect i).DT ≠ s.DT → ∃ x, i = .ldDTVx x := by
  cases i
  case ldDTVx x => exact fun _ => ⟨x, rfl⟩
  all_goals exact absurd rfl

theorem State.effect_ST : (s.effect i).ST ≠ s.ST → ∃ x, i = .ldSTVx x := by
  cases i
  case ldSTVx x => exact fun _ => ⟨x, rfl⟩
  all_goals exact absurd rfl

theorem State.effect_latch : (s.effect i).latch ≠ s.latch → ∃ x, i = .ldVxK x := by
  cases i
  case ldVxK x => exact fun _ => ⟨x, rfl⟩
  all_goals exact absurd rfl

theorem State.effect_pix : (s.effect i).pix ≠ s.pix → i = .cls ∨ ∃ x y n, i = .drw x y n := by
  cases i
  case cls => exact fun _ => .inl rfl
  case drw x y n => exact fun _ => .inr ⟨x, y, n, rfl⟩
  all_goals exact absurd rfl

theorem State.effect_mem : (s.effect i).mem ≠ s.mem → ∃ x, i = .ldBVx x ∨ i = .storeRegs x := by
  cases i
  case ldBVx x => exact fun _ => ⟨x, .inl rfl⟩
  case storeRegs x => exact fun _ => ⟨x, .inr rfl⟩
  all_goals exact absurd rfl

theorem State.effect_draws : (s.effect i).draws ≠ s.draws → ∃ x kk, i = .rnd x kk := by
  cases i
  case rnd x kk => exact fun _ => ⟨x, kk, rfl⟩
  all_goals exact absurd rfl

theorem State.effect_warnings : (s.effect i).warnings ≠ s.warnings → ∃ nnn, i = .sys nnn := by
  cases i
  case sys nnn => exact fun _ => ⟨nnn, rfl⟩
  all_goals exact absurd rfl

/-- The instructions whose effect may leave pc elsewhere than at the next address: the list of R113 with Ex9E and ExA1
added (log entry 21). -/
def WritesPc (i : Instr) : Prop :=
  i = .ret ∨ (∃ nnn, i = .jp nnn ∨ i = .call nnn ∨ i = .jpV0 nnn) ∨
  (∃ x kk, i = .seImm x kk ∨ i = .sneImm x kk) ∨ (∃ x y, i = .seReg x y ∨ i = .sneReg x y) ∨
  ∃ x, i = .skp x ∨ i = .sknp x ∨ i = .ldVxK x

theorem State.effect_pc : (s.effect i).pc ≠ s.pc + 2 → WritesPc i := by
  cases i
  case ret | jp | call | jpV0 | seImm | sneImm | seReg | sneReg | skp | sknp | ldVxK => simp [WritesPc]
  all_goals exact absurd rfl

/-- The instructions that write VF: those with a flag, and those whose destination is register F (R21). -/
def WritesVf (i : Instr) : Prop :=
  (∃ x y, i = .addReg x y ∨ i = .sub x y ∨ i = .shr x y ∨ i = .subn x y ∨ i = .shl x y) ∨
  (∃ x y n, i = .drw x y n) ∨
  (∃ kk, i = .ldImm 15 kk ∨ i = .addImm 15 kk ∨ i = .rnd 15 kk) ∨
  (∃ y, i = .ldReg 15 y ∨ i = .orReg 15 y ∨ i = .andReg 15 y ∨ i = .xorReg 15 y) ∨
  i = .ldVxDT 15 ∨ i = .ldVxK 15 ∨ i = .loadRegs 15

/-- A load writes VF only with F as its destination. -/
theorem State.loaded_reg_vF_ne {x : Reg} {v : Byte} (h : (s.loaded x v).reg 15 ≠ s.reg 15) : x = 15 := by
  by_contra hx
  exact h (by simp [State.loaded, Ne.symm hx])

/-- Fx0A writes VF only with F as its destination, since it writes Vx or nothing (R163). -/
theorem effect_ldVxK_reg_vF_ne {x : Reg} (h : (s.effect (.ldVxK x)).reg 15 ≠ s.reg 15) : x = 15 := by
  cases hl : s.latch with
  | none => exact absurd (by simp only [State.effect, hl, State.reg]) h
  | some k =>
    simp only [State.effect, hl] at h
    exact s.loaded_reg_vF_ne (v := trunc8 k.val) h

/-- Fx65 writes VF only as the last of its registers (R176). -/
theorem effect_loadRegs_reg_vF_ne {x : Reg} (h : (s.effect (.loadRegs x)).reg 15 ≠ s.reg 15) : x = 15 := by
  rw [effect_loadRegs_reg] at h
  have hx : (15 : Reg) ≤ x := by
    by_contra hlt
    exact h (if_neg hlt)
  exact le_antisymm (Fin.le_last x) hx

theorem State.effect_reg_vF : (s.effect i).reg 15 ≠ s.reg 15 → WritesVf i := by
  cases i
  case addReg | sub | shr | subn | shl | drw => simp [WritesVf]
  case ldImm | addImm | rnd | ldReg | orReg | andReg | xorReg | ldVxDT =>
    intro h
    simp [WritesVf, s.loaded_reg_vF_ne h]
  case ldVxK =>
    intro h
    simp [WritesVf, effect_ldVxK_reg_vF_ne s h]
  case loadRegs =>
    intro h
    simp [WritesVf, effect_loadRegs_reg_vF_ne s h]
  all_goals exact absurd rfl

variable {s i}

/-- An instruction that answers `t` has faulted, or has had its effect. -/
theorem exec_next_cases {t : State} (h : exec i s = .next t) : (∃ c, t = s.takeFault c) ∨ t = s.effect i := by
  cases (exec_eq s i).symm.trans h
  unfold State.ending
  split
  · exact .inl ⟨_, rfl⟩
  · exact .inr rfl

end

/-- Settles O41: a fault leaves every item but the record, and of an effect each item is known. -/
theorem whoWritesWhat : Obligations.WhoWritesWhat := by
  intro i s t hexec
  obtain ⟨c, rfl⟩ | rfl := exec_next_cases hexec
  · refine ⟨rfl, rfl, absurd rfl, Or.rec (absurd rfl) (absurd rfl), absurd rfl, absurd rfl, absurd rfl, absurd rfl,
      absurd rfl, absurd rfl, absurd rfl, fun _ => nofun⟩
  · exact ⟨s.effect_key i, s.effect_run i, s.effect_I i, s.effect_stack i, s.effect_DT i, s.effect_ST i,
      s.effect_latch i, s.effect_pix i, s.effect_mem i, s.effect_draws i, s.effect_warnings i, fun h _ => s.effect_pc i h⟩

/-- Settles O42: a fault writes no register, and an effect writes VF only under the instructions named. -/
theorem onlyFlagWritersChangeVf : Obligations.OnlyFlagWritersChangeVf := by
  intro i s t hexec hvf
  obtain ⟨c, rfl⟩ | rfl := exec_next_cases hexec
  · exact absurd rfl hvf
  · exact s.effect_reg_vF i hvf

end Sys2Proof.Machine
end

section
/-! SUPPORT. What no cycle reads (10_state.md R25, R27, 60_exceptions.md R228, R235): the sound timer, the run state, the
warnings, and the stale entries of the stack. Two-run statements, for equal draws (log entry 2): the obligations O43 and
O44. -/

namespace Sys2Proof.Machine

/-! The sound timer, the run state and the warnings. -/

/-- `s` with any other sound timer, run state and warnings. -/
def State.withUnread (s : State) (v : Byte) (b : RunState) (w : List Word) : State :=
  { s with ST := v, run := b, warnings := w }

/-- `t'` is `t` but for the sound timer, the warnings and the run state, which is `b`. -/
def State.MatchesUnread (t t' : State) (b : RunState) : Prop := ∃ v w, t' = t.withUnread v b w

section
variable (s : State) (v : Byte) (b : RunState) (w : List Word) (i : Instr)

theorem instrFault_withUnread : instrFault i (s.withUnread v b w) = instrFault i s := by cases i <;> rfl

theorem State.effect_withUnread : (s.effect i).MatchesUnread ((s.withUnread v b w).effect i) b := by
  cases i
  case ldSTVx x => exact ⟨s.reg x, w, rfl⟩
  case sys nnn => exact ⟨v, w ++ [encode (.sys nnn)], rfl⟩
  all_goals exact ⟨v, w, rfl⟩

theorem State.ending_withUnread : (s.ending i).MatchesUnread ((s.withUnread v b w).ending i) b := by
  cases h : instrFault i s with
  | none =>
    rw [s.ending_of_passed h, State.ending_of_passed _ ((instrFault_withUnread s v b w i).trans h)]
    exact s.effect_withUnread v b w i
  | some c =>
    rw [s.ending_of_fault h, State.ending_of_fault _ ((instrFault_withUnread s v b w i).trans h)]
    exact ⟨v, w, rfl⟩

theorem State.stepped_withUnread : s.stepped.MatchesUnread (s.withUnread v b w).stepped b := by
  have hfetch : fetchDecode (s.withUnread v b w) = fetchDecode s := rfl
  unfold State.stepped
  rw [hfetch]
  cases fetchDecode s with
  | error c => exact ⟨v, w, rfl⟩
  | ok i => exact s.ending_withUnread v b w i

end

/-- Settles O43: fetch, checks and effects read none of the three. -/
theorem noInstructionReadsSoundRunOrWarnings : Obligations.NoInstructionReadsSoundRunOrWarnings := by
  intro s t v b w hstep
  obtain ⟨hs, rfl⟩ := step_eq_next_iff.mp hstep
  obtain ⟨v', w', hmatch⟩ := s.stepped_withUnread v b w
  refine ⟨_, step_eq_stepped (s := s.withUnread v b w) hs, ?_, ?_⟩
  all_goals
    rw [hmatch]
    rfl

/-! Stale stack entries. -/

/-- The entries of two stacks below number `n` are the same. -/
def AgreeBelow (n : Nat) (k k' : Vector Word 16) : Prop := ∀ j : Fin 16, j.val < n → k[j] = k'[j]

/-- `t'` is `t` but for stale entries of the stack. -/
def State.MatchesStale (t t' : State) : Prop := ∃ k, t' = { t with stack := k } ∧ AgreeBelow t.sp.val k t.stack

section
variable {s : State} {k : Vector Word 16} (hk : AgreeBelow s.sp.val k s.stack)
include hk

/-- A return reads the entry below sp, which is not stale (R104). -/
theorem State.effect_ret_withStack (hsp : s.sp ≠ 0) :
    (s.effect .ret).MatchesStale ({ s with stack := k }.effect .ret) := by
  have hpos : 0 < s.sp.val := Nat.pos_of_ne_zero (Fin.val_ne_of_ne hsp)
  have htop : k[s.sp.val - 1] = s.stack[s.sp.val - 1] := hk ⟨s.sp.val - 1, by omega⟩ (Nat.sub_lt hpos Nat.one_pos)
  refine ⟨k, ?_, fun j hj => hk j (Nat.lt_of_lt_of_le hj (Nat.sub_le _ _))⟩
  simp only [State.effect, htop]

/-- A call writes the one entry that it brings into use (R106). -/
theorem State.effect_call_withStack (nnn : BitVec 12) :
    (s.effect (.call nnn)).MatchesStale ({ s with stack := k }.effect (.call nnn)) := by
  refine ⟨k.setIfInBounds s.sp.val s.npc, rfl, fun j hj => ?_⟩
  have hlt : j.val < s.sp.val + 1 := Nat.lt_of_lt_of_le hj (by
    change (s.sp + 1).val ≤ _
    rw [Fin.val_add]
    exact Nat.mod_le _ _)
  change (k.setIfInBounds s.sp.val s.npc)[j.val] = (s.stack.setIfInBounds s.sp.val s.npc)[j.val]
  rw [Vector.getElem_setIfInBounds j.isLt, Vector.getElem_setIfInBounds j.isLt]
  split_ifs with heq
  · rfl
  · exact hk j (by omega)

theorem State.effect_withStack {i : Instr} (hpass : instrFault i s = none) :
    (s.effect i).MatchesStale ({ s with stack := k }.effect i) := by
  cases i
  case ret => exact effect_ret_withStack hk fun h => absurd (hpass.symm.trans (if_pos h)) nofun
  case call nnn => exact effect_call_withStack hk nnn
  all_goals exact ⟨k, rfl, hk⟩

theorem State.ending_withStack (i : Instr) : (s.ending i).MatchesStale ({ s with stack := k }.ending i) := by
  have hcheck : instrFault i { s with stack := k } = instrFault i s := by cases i <;> rfl
  cases h : instrFault i s with
  | none =>
    rw [s.ending_of_passed h, State.ending_of_passed _ (hcheck.trans h)]
    exact effect_withStack hk h
  | some c =>
    rw [s.ending_of_fault h, State.ending_of_fault _ (hcheck.trans h)]
    exact ⟨k, rfl, hk⟩

theorem State.stepped_withStack : s.stepped.MatchesStale { s with stack := k }.stepped := by
  have hfetch : fetchDecode { s with stack := k } = fetchDecode s := rfl
  unfold State.stepped
  rw [hfetch]
  cases fetchDecode s with
  | error c => exact ⟨k, rfl, hk⟩
  | ok i => exact ending_withStack hk i

end

/-- Settles O44: the one instruction that reads the stack reads below sp, and the one that raises sp writes the entry it
brings into use. -/
theorem staleStackEntriesAreUnobservable : Obligations.StaleStackEntriesAreUnobservable := by
  intro s t k hk hstep
  obtain ⟨hs, rfl⟩ := step_eq_next_iff.mp hstep
  obtain ⟨k', hmatch, hagree⟩ := State.stepped_withStack hk
  refine ⟨_, step_eq_stepped (s := { s with stack := k }) hs, ?_, ?_⟩
  all_goals rw [hmatch]
  exact hagree

end Sys2Proof.Machine
end

section
/-! SUPPORT. The invariant of Safety.lean: what keeps it, over every cycle and every operation of the host, and the
obligations O45, O46 and O47. -/

namespace Sys2Proof.Machine

/-! Faults. -/

section
variable {s : State} {c : FaultCause}

theorem eq_of_check {p : Prop} [Decidable p] {d : FaultCause} (h : (if p then some d else none) = some c) :
    p ∧ d = c := by
  split_ifs at h with hp
  exact ⟨hp, Option.some.inj h⟩

/-- The check of an instruction finds a legal fault (R200). -/
theorem instrFault_legal {i : Instr} (h : instrFault i s = some c) : c.legal := by
  cases i <;> simp only [instrFault, reduceCtorEq] at h <;> obtain ⟨hp, rfl⟩ := eq_of_check h
  case ret | call => rfl
  case skp | sknp => exact hp
  case drw | ldBVx | storeRegs | loadRegs => exact le_max_right _ _

/-- The bounds check and the decoder find a legal fault (R200). -/
theorem fetchDecode_legal (h : fetchDecode s = .error c) : c.legal := by
  obtain ⟨-, hfetch⟩ | ⟨-, op, rfl, ⟨e, hdec, hfetch⟩ | ⟨i, -, hfetch⟩⟩ := fetchDecodeWith_cases Config.fxExt s
  all_goals cases h.symm.trans hfetch
  · exact le_max_right _ _
  · cases decodeOp_error hdec
    exact hdec

theorem State.Inv.takeFault (h : s.Inv) (hc : c.legal) : (s.takeFault c).Inv where
  memory := h.memory
  pcBound := h.pcBound
  stackBound := h.stackBound
  latchHeld := h.latchHeld
  faultLegal := fun r hr => by
    cases hr
    exact ⟨hc, rfl⟩

end

/-! Effects. -/

section
variable {s t : State}

/-- With no fault recorded, a state that differs from one of the invariant in no item it speaks of but pc. -/
theorem State.Inv.of_pc (h : s.Inv) (hfault : t.fault = none) (hpc : t.pc.toNat ≤ 0x10FE) (hmem : t.mem = s.mem)
    (hstack : t.stack = s.stack) (hlatch : t.latch = s.latch) (hkey : t.key = s.key) : t.Inv where
  memory := hmem ▸ h.memory
  pcBound := hpc
  stackBound := hstack ▸ h.stackBound
  latchHeld := hlatch ▸ hkey ▸ h.latchHeld
  faultLegal := fun _ hr => absurd (hfault.symm.trans hr) nofun

/-- A store at I from a state of the invariant, if its bytes are in memory (R52). -/
theorem State.Inv.writeList (h : s.Inv) {a : Nat} {vs : List Byte} (hin : a + vs.length ≤ 4096) :
    (s.setMem (s.mem.writeList a vs)).Inv where
  memory := Memory.wf_writeList vs h.memory hin
  pcBound := h.pcBound
  stackBound := h.stackBound
  latchHeld := h.latchHeld
  faultLegal := h.faultLegal

theorem not_of_passed {i : Instr} {p : Prop} {_ : Decidable p} {c : FaultCause} (hpass : instrFault i s = none)
    (hcheck : instrFault i s = if p then some c else none) : ¬ p := fun hp =>
  absurd (hpass.symm.trans (hcheck.trans (if_pos hp))) nofun

section
variable (hpc : s.pc.toNat + 2 ≤ 4096)
include hpc

/-- The address after a fetched opcode (R102). -/
theorem State.npc_toNat : s.npc.toNat = s.pc.toNat + 2 := by
  rw [State.npc]
  bv_omega

/-- A skip goes two bytes past the next address, or not (R112). -/
theorem State.skip_toNat_le (p : Prop) [Decidable p] :
    (if p then s.pc + 4 else s.pc + 2).toNat ≤ 0x10FE ∧ (if p then s.pc + 2 else s.pc + 4).toNat ≤ 0x10FE := by
  have h2 : (s.pc + 2).toNat = s.pc.toNat + 2 := State.npc_toNat hpc
  have h4 : (s.pc + 4).toNat = s.pc.toNat + 4 := by bv_omega
  split_ifs <;> omega

end

section
variable (h : s.Inv) (hs : s.fault = none) (hpc : s.pc.toNat + 2 ≤ 4096)
include h hs hpc

/-- A call pushes an address of at most 0x1000 (R102, R106). -/
theorem State.Inv.effect_call (nnn : BitVec 12) : (s.effect (.call nnn)).Inv where
  memory := h.memory
  pcBound := (zextAddr_toNat nnn).trans_le (by omega)
  stackBound := fun j => by
    change ((s.stack.setIfInBounds s.sp.val s.npc)[j.val]).toNat ≤ 0x1000
    rw [Vector.getElem_setIfInBounds j.isLt]
    split_ifs
    · exact (State.npc_toNat hpc).trans_le hpc
    · exact h.stackBound j
  latchHeld := h.latchHeld
  faultLegal := fun _ hr => absurd (hs.symm.trans hr) nofun

/-- Fx0A goes on or stays, and leaves no key latched (R163). -/
theorem State.Inv.effect_ldVxK (x : Reg) : (s.effect (.ldVxK x)).Inv where
  memory := h.memory
  pcBound := by
    cases hl : s.latch with
    | none =>
      simp only [State.effect, hl]
      exact h.pcBound
    | some k =>
      simp only [State.effect, hl]
      exact (State.npc_toNat hpc).trans_le (by omega)
  stackBound := h.stackBound
  latchHeld := fun _ hk => absurd hk nofun
  faultLegal := fun _ hr => absurd (hs.symm.trans hr) nofun

/-- The effect of an instruction that was fetched and passes its check. -/
theorem State.Inv.effect {i : Instr} (hpass : instrFault i s = none) : (s.effect i).Inv := by
  have hnpc : s.npc.toNat ≤ 0x10FE := (State.npc_toNat hpc).trans_le (by omega)
  cases i
  case ret => exact h.of_pc hs ((h.stackBound ⟨s.sp.val - 1, by omega⟩).trans (by decide)) rfl rfl rfl rfl
  case call nnn => exact h.effect_call hs hpc nnn
  case jp nnn => exact h.of_pc hs ((zextAddr_toNat nnn).trans_le (by omega)) rfl rfl rfl rfl
  case jpV0 nnn => exact h.of_pc hs ((v0Target_toNat s nnn).trans_le (by omega)) rfl rfl rfl rfl
  case seImm | seReg | skp => exact h.of_pc hs (State.skip_toNat_le hpc _).1 rfl rfl rfl rfl
  case sneImm | sneReg | sknp => exact h.of_pc hs (State.skip_toNat_le hpc _).2 rfl rfl rfl rfl
  case ldVxK x => exact h.effect_ldVxK hs hpc x
  case ldBVx x =>
    have hin := not_of_passed hpass rfl
    exact (h.writeList (by rw [bcdDigits_length]; omega)).of_pc hs hnpc rfl rfl rfl rfl
  case storeRegs x =>
    have hin := not_of_passed hpass rfl
    exact (h.writeList (by rw [regsUpTo_length]; omega)).of_pc hs hnpc rfl rfl rfl rfl
  all_goals exact h.of_pc hs hnpc rfl rfl rfl rfl

end

/-- A whole cycle (R100): an instruction is performed only where both its bytes are in memory. -/
theorem State.Inv.stepped (h : s.Inv) (hs : s.fault = none) : s.stepped.Inv := by
  unfold State.stepped
  split
  case h_1 c hfetch => exact h.takeFault (fetchDecode_legal hfetch)
  case h_2 i hfetch =>
    have hpc : s.pc.toNat + 2 ≤ 4096 := by
      by_contra hout
      rw [fetchDecode_of_out (by omega)] at hfetch
      cases hfetch
    cases hpass : instrFault i s with
    | none =>
      rw [s.ending_of_passed hpass]
      exact h.effect hs hpc hpass
    | some c =>
      rw [s.ending_of_fault hpass]
      exact h.takeFault (instrFault_legal hpass)

end

/-- Settles O46: a fault found in a cycle is legal, and an effect keeps every bound. -/
theorem everyCycleKeepsTheInvariant : Obligations.EveryCycleKeepsTheInvariant := by
  intro s t h hstep
  obtain ⟨hs, rfl⟩ := step_eq_next_iff.mp hstep
  exact h.stepped hs

end Sys2Proof.Machine
end

section
/-! SUPPORT. The invariant over the operations of the host (60_exceptions.md R220 to R236, 70_reset_and_hazards.md R250 to
R253), and the obligations O45 and O47. -/

namespace Sys2Proof.Machine

/-- Settles O45: every field at its reset value. -/
theorem resetMeetsTheInvariant : Obligations.ResetMeetsTheInvariant where
  memory := Memory.wf_reset
  pcBound := by decide
  stackBound := by decide
  latchHeld := fun _ hk => absurd hk nofun
  faultLegal := fun _ hr => absurd hr nofun

section
variable {s : State}

/-- Items that the invariant does not speak of may change: whatever else is as before keeps it. -/
theorem State.Inv.congr {t : State} (h : s.Inv) (hmem : t.mem = s.mem) (hpc : t.pc = s.pc) (hstack : t.stack = s.stack)
    (hlatch : t.latch = s.latch) (hkey : t.key = s.key) (hfault : t.fault = s.fault) : t.Inv where
  memory := hmem ▸ h.memory
  pcBound := hpc ▸ h.pcBound
  stackBound := hstack ▸ h.stackBound
  latchHeld := hlatch ▸ hkey ▸ h.latchHeld
  faultLegal := hfault ▸ hpc ▸ h.faultLegal

variable (s) in
theorem hostResetIn_inv : (hostResetIn specParams s).Inv := by
  rw [hostResetIn_specParams]
  exact State.Inv.congr resetMeetsTheInvariant rfl rfl rfl rfl rfl rfl

variable (s) in
/-- A ROM load ends in the reset state, with the image in memory if its length allows (R252, R253). -/
theorem perform_loadRom_inv (bytes : List Byte) : (perform (.loadRom bytes) s).1.Inv := by
  have hreset := hostResetIn_inv s
  rw [perform]
  by_cases hempty : bytes.length = 0
  · rwa [performIn_loadRom_of_empty specParams s hempty]
  · by_cases hlarge : 3584 < bytes.length
    · rwa [performIn_loadRom_of_tooLarge specParams s hlarge]
    · rw [performIn_loadRom_of_fits specParams s (by omega) (not_lt.mp hlarge)]
      exact (hreset.writeList (a := 0x200) (vs := bytes) (by omega)).congr rfl rfl rfl rfl rfl rfl

theorem State.Inv.executeIn (h : s.Inv) : (executeIn specParams s).1.Inv := by
  rw [executeIn_specParams]
  cases hs : s.fault with
  | none =>
    rw [step_eq_stepped hs]
    exact h.stepped hs
  | some r =>
    rw [step_of_faulted hs]
    exact h

/-- The cycles of a frame, one after the other (R231). -/
theorem State.Inv.runCyclesIn : ∀ (n : Nat) {s : State}, s.Inv → (runCyclesIn specParams n s).1.Inv
  | 0, _, h => h
  | n + 1, s, h => by
    have hnext := h.executeIn
    unfold Machine.runCyclesIn
    split <;> rename_i heq <;> rw [heq] at hnext
    case h_1 => exact runCyclesIn n hnext
    case h_2 => exact hnext

theorem State.Inv.tick (h : s.Inv) : (tick s).Inv := h.congr rfl rfl rfl rfl rfl rfl

theorem State.Inv.runFrame (h : s.Inv) (n : Nat) : (perform (.runFrame n) s).1.Inv := by
  change (runFrameIn specParams n s).1.Inv
  unfold runFrameIn
  have hcycles := h.runCyclesIn (if n = 0 then specParams.cyclesPerFrame else n)
  split
  case h_1 => exact h
  case h_2 =>
    split
    · exact h
    · split <;> rename_i heq <;> rw [heq] at hcycles
      case h_1 => exact hcycles.tick
      case h_2 => exact hcycles

/-- A key event leaves only a key latched that is held: a press holds the key it latches, and a release, by decision D9,
empties the latch of its key (R225). -/
theorem State.Inv.setKeyState (h : s.Inv) (k : Nat) (pressed : Bool) :
    (perform (.setKeyState k pressed) s).1.Inv := by
  rw [perform_setKeyState]
  by_cases hk : k < 16
  case neg => rwa [setKeyStateWith_of_ge _ s (not_lt.mp hk)]
  case pos =>
    rw [setKeyStateWith_of_key _ s ⟨k, hk⟩]
    refine ⟨h.memory, h.pcBound, h.stackBound, fun j hj => ?_, h.faultLegal⟩
    change (s.key.set k pressed)[j] = true
    rw [key_set_getElem s.key ⟨k, hk⟩ j pressed]
    cases pressed with
    | true =>
      cases hj
      exact if_pos rfl
    | false =>
      have hlatch : releaseLatch .clearIfSame ⟨k, hk⟩ s.latch = some j := hj
      rw [releaseLatch_eq] at hlatch
      split_ifs at hlatch with hsame
      have hother : j ≠ ⟨k, hk⟩ := fun hjk => hsame ⟨rfl, hlatch.trans (congrArg some hjk)⟩
      rw [if_neg hother]
      exact h.latchHeld j hlatch

theorem State.Inv.writeByte (h : s.Inv) (a : Nat) (v : Byte) : (perform (.writeByte a v) s).1.Inv := by
  rw [perform_writeByte]
  split_ifs with ha
  · exact h.writeList (a := a) (vs := [v]) ha
  · exact h

end

/-- Settles O47: reset and a ROM load start from the reset state, cycles keep the invariant, and the ports write memory
inside its bounds or items the invariant does not speak of, but for the key port. -/
theorem everyHostOperationKeepsTheInvariant : Obligations.EveryHostOperationKeepsTheInvariant := by
  intro op s h
  cases op
  case reset => exact hostResetIn_inv s
  case loadRom bytes => exact perform_loadRom_inv s bytes
  case execute => exact h.executeIn
  case runFrame n => exact h.runFrame n
  case tick => exact h.tick
  case setKeyState k pressed => exact h.setKeyState k pressed
  case writeByte a v => exact h.writeByte a v
  case setPixel | setDelay | setSound | setRunning => exact h.congr rfl rfl rfl rfl rfl rfl
  all_goals exact h

end Sys2Proof.Machine
end

section
/-! SUPPORT. Ticks and frames (60_exceptions.md R220 to R234, 70_reset_and_hazards.md R262), and the obligations O50, O51,
O52 and O54. -/

namespace Sys2Proof.Machine

/-! Ticks. -/

theorem countDown_toNat (v : Byte) : (countDown v).toNat = v.toNat - 1 := by
  unfold countDown
  split_ifs with h
  · rw [h]
    rfl
  · have hpos : 1 ≤ v := by bv_omega
    exact BitVec.toNat_sub_of_le hpos

theorem perform_tick (s : State) : perform .tick s = (tick s, .ok) := rfl

/-- Settles O50: each counter counts down on its own. -/
theorem tickCountsDownToZero : Obligations.TickCountsDownToZero := fun s =>
  ⟨⟨_, perform_tick s, countDown_toNat s.DT, countDown_toNat s.ST, rfl⟩, rfl⟩

/-- Settles O51, by induction on the number of ticks. -/
theorem delayReachesZeroAfterItsTicks : Obligations.DelayReachesZeroAfterItsTicks := by
  intro n s
  induction n with
  | zero => exact ⟨rfl, rfl⟩
  | succ n ih =>
    obtain ⟨hDT, hST⟩ := ih
    rw [Function.iterate_succ_apply']
    exact ⟨by rw [tick, countDown_toNat, hDT, Nat.sub_sub], by rw [tick, countDown_toNat, hST, Nat.sub_sub]⟩

/-! Frames. -/

section
variable {t : State}

/-- The cycles of a frame in which none faults are the run of the machine (R231). -/
theorem runCyclesIn_of_core_run_ok (ht : t.fault = none) : ∀ {n : Nat} {s : State}, s.fault = none →
    Sys2Proof.core.run n s = .next t → runCyclesIn specParams n s = (t, .ok)
  | 0, _, _, hrun => by
    cases hrun
    rfl
  | n + 1, s, hs, hrun => by
    obtain ⟨u, hstep, -⟩ := step_cycleEnd hs
    rw [core_run_next hstep] at hrun
    cases hu : u.fault with
    | none => rw [runCyclesIn_succ_of_ok n hstep hu, runCyclesIn_of_core_run_ok ht hu hrun]
    | some r =>
      obtain rfl : u = t := core_run_of_faulted hu hrun
      exact absurd (ht.symm.trans hu) nofun

/-- A frame of a given number of cycles that do not fault ends with the tick, and reads sound after it (R231, R234). -/
theorem perform_runFrame_of_cycles_ok {n : Nat} {s : State} (hs : s.fault = none) (hrun : s.run = .running) (hn : n ≠ 0)
    (hcycles : runCyclesIn specParams n s = (t, .ok)) :
    perform (.runFrame n) s = (tick t, .frame true (beep (tick t))) := by
  change runFrameIn specParams n s = _
  simp only [runFrameIn, hs, hrun, if_neg hn, hcycles, reduceCtorEq, if_false]

end

/-- Settles O52: the frame's cycles are the run, and sound is read from ST after the tick. -/
theorem frameIsItsCyclesThenOneTick : Obligations.FrameIsItsCyclesThenOneTick := by
  intro n s t hn hs hrunning hrun ht
  rw [perform_runFrame_of_cycles_ok hs hrunning hn (runCyclesIn_of_core_run_ok ht hs hrun), perform_tick]
  have hST : (tick t).ST.toNat = t.ST.toNat - 1 := countDown_toNat t.ST
  simp only [beep, hST, gt_iff_lt]

/-- An override of 0 stands for the block's own number of cycles (R231). -/
theorem performIn_runFrame_zero (p : Config.Params) (s : State) :
    performIn p (.runFrame 0) s = performIn p (.runFrame p.cyclesPerFrame) s := by
  simp only [performIn, runFrameIn, if_true, ite_self]

theorem perform_runFrame_of_stopped (n : Nat) {s : State} (hs : s.fault = none) (hrun : s.run = .stopped) :
    perform (.runFrame n) s = (s, .frame false false) := by
  change runFrameIn specParams n s = _
  simp only [runFrameIn, hs, hrun, if_true]

/-- Settles O54: the count of the block is CYCLES_PER_FRAME, which is at least 1. -/
theorem frameOverrideAndStoppedBlock : Obligations.FrameOverrideAndStoppedBlock :=
  ⟨⟨specParams.cyclesPerFrame, Nat.le_add_left _ _, performIn_runFrame_zero specParams⟩, performIn_runFrame_zero,
    fun n _ => perform_runFrame_of_stopped n⟩

end Sys2Proof.Machine
end

section
/-! SUPPORT. FONT_TABLE and FONT_BASE as parameters (20_memory.md R56, R57, 00_scope.md R7), and the obligation O59. -/

namespace Sys2Proof.Machine

section
variable (p : Config.Params) (s : State)

theorem performIn_reset : performIn p .reset s = (hostResetIn p s, .ok) := rfl

/-- Nothing but memory depends on the parameters of a reset. -/
theorem hostResetIn_eq : hostResetIn p s = { (perform .reset s).1 with mem := (hostResetIn p s).mem } := by
  rw [perform_reset]
  rfl

end

section
variable {base : Nat} (hbase : base + 80 ≤ 4096) (font : Config.FontTable)
include hbase

/-- Row `r` of glyph `g` after reset (R56). -/
theorem read_resetMemory_glyph (g : Fin 16) (r : Fin 5) :
    (resetMemory base font).read (base + (5 * g.val + r.val)) = font[5 * g.val + r.val] := by
  rw [Memory.read_resetMemory hbase, resetByteWith, if_pos (Nat.le_add_right _ _), Nat.add_sub_cancel_left,
    List.getD_eq_getElem _ _ (by rw [Vector.length_toList]; omega), Vector.getElem_toList]

/-- Outside the font, memory is zero after reset (R57). -/
theorem read_resetMemory_outside {a : Nat} (ha : a < base ∨ base + 80 ≤ a) : (resetMemory base font).read a = 0 := by
  rw [Memory.read_resetMemory hbase, resetByteWith]
  split_ifs
  · exact List.getD_eq_default _ _ (by rw [Vector.length_toList]; omega)
  · rfl

end

/-- Settles O59: reset memory reads as the font of the parameters, and a ROM load obeys the read-after-write law on it. -/
theorem fontTableIsAParameter : Obligations.FontTableIsAParameter := by
  intro p s hlegal
  obtain ⟨-, hbase⟩ := hlegal
  have hwf : (hostResetIn p s).mem.wf = true := Memory.wf_resetMemory hbase p.fontTable
  refine ⟨⟨_, performIn_reset p s, hwf, read_resetMemory_glyph hbase p.fontTable,
      fun a => read_resetMemory_outside hbase p.fontTable, hostResetIn_eq p s, fun bytes hpos hle => ?load⟩,
    fun font op => performIn_fontTable p font op s, fun font op => performIn_fontTable specParams font op s⟩
  case load =>
    exact ⟨_, performIn_loadRom_of_fits p s hpos hle, Memory.wf_writeList bytes hwf (by omega),
      fun i => Memory.read_writeList_inside hwf (by omega), fun a => Memory.read_writeList_outside hwf (by omega), rfl⟩

end Sys2Proof.Machine
end

section
/-! SUPPORT. How a run ends, and where it hangs (70_reset_and_hazards.md R271), and the obligation O60. -/

namespace Sys2Proof.Machine

section
variable {s : State}

/-- A state is final exactly if its step has no next state (R211). -/
theorem State.isFinal_iff : s.isFinal ↔ ∀ t, step s ≠ .next t := by
  cases hs : s.fault with
  | none => simp [State.isFinal, hs, step_eq_stepped hs]
  | some r => simp [State.isFinal, hs, step_of_faulted hs]

/-- A state's hang is no end of its run, and lasts as long as the host does nothing. -/
theorem State.hung.run (h : s.hung) : ∀ n, Sys2Proof.core.run n s = .next s
  | 0 => rfl
  | n + 1 => (core_run_next h).trans (State.hung.run h n)

/-- The instructions that hang in one place: a jump to its own address, and the key wait (R271). -/
def HangsAt (s : State) (i : Instr) : Prop :=
  (∃ nnn, i = .jp nnn ∧ nnn.toNat = s.pc.toNat) ∨
  (∃ nnn, i = .jpV0 nnn ∧ (s.reg 0).toNat + nnn.toNat = s.pc.toNat) ∨
  ∃ x, i = .ldVxK x ∧ s.latch = none

theorem State.setPc_eq_self_iff {a : Word} : s.setPc a = s ↔ a.toNat = s.pc.toNat := by
  rw [BitVec.toNat_inj]
  exact ⟨congrArg State.pc, fun h => h ▸ rfl⟩

theorem State.takeFault_ne_self (hs : s.fault = none) (c : FaultCause) : s.takeFault c ≠ s := fun h =>
  absurd (hs.symm.trans (congrArg State.fault h.symm)) nofun

/-- Past the next two bytes or not, a skip moves pc (R112). -/
theorem skip_ne_self (a : Word) (p : Prop) [Decidable p] :
    (if p then a + 4 else a + 2) ≠ a ∧ (if p then a + 2 else a + 4) ≠ a := by
  split_ifs <;> simp

/-- An effect that leaves the whole state as it was is one of the hangs: another instruction moves pc, or sp. -/
theorem State.hangsAt_of_effect_eq_self {i : Instr} (hpass : instrFault i s = none) (h : s.effect i = s) :
    HangsAt s i := by
  have hnext : s.pc + 2 ≠ s.pc := by simp
  cases i
  case jp nnn => exact .inl ⟨nnn, rfl, (zextAddr_toNat nnn).symm.trans (State.setPc_eq_self_iff.mp h)⟩
  case jpV0 nnn => exact .inr (.inl ⟨nnn, rfl, (v0Target_toNat s nnn).symm.trans (State.setPc_eq_self_iff.mp h)⟩)
  case ldVxK x => exact .inr (.inr ⟨x, rfl, (congrArg State.latch h).symm⟩)
  case ret =>
    have hsp : s.sp.val - 1 = s.sp.val := congrArg (fun t => t.sp.val) h
    have hempty : s.sp = 0 := Fin.ext (Nat.sub_one_eq_self.mp hsp)
    exact absurd hempty (not_of_passed hpass rfl)
  case call nnn =>
    have hsp : s.sp + 1 = s.sp := congrArg State.sp h
    exact absurd (add_eq_left.mp hsp) (by decide)
  case seImm | seReg | skp => exact absurd (congrArg State.pc h) (skip_ne_self _ _).1
  case sneImm | sneReg | sknp => exact absurd (congrArg State.pc h) (skip_ne_self _ _).2
  all_goals exact absurd (congrArg State.pc h) hnext

/-- A cycle on one of the hangs leaves the whole state as it was (R105, R111, R163). -/
theorem HangsAt.exec {i : Instr} (h : HangsAt s i) : exec i s = .next s := by
  obtain ⟨nnn, rfl, hpc⟩ | ⟨nnn, rfl, hpc⟩ | ⟨x, rfl, hl⟩ := h
  · rw [exec_jp, State.setPc_eq_self_iff.mpr ((zextAddr_toNat nnn).trans hpc)]
  · rw [exec_jpV0, State.setPc_eq_self_iff.mpr ((v0Target_toNat s nnn).trans hpc)]
  · exact exec_ldVxK_of_empty hl

/-- A hang is a hanging instruction at pc: a fault would be recorded. -/
theorem State.hung_iff :
    s.hung ↔ s.fault = none ∧ s.pc.toNat + 2 ≤ 4096 ∧ ∃ i,
      decodeOp Config.fxExt (bigEndian (s.mem.read s.pc.toNat) (s.mem.read (s.pc.toNat + 1))) = .ok i ∧ HangsAt s i := by
  constructor
  · intro h
    obtain ⟨hs, hself⟩ := step_eq_next_iff.mp h
    unfold State.stepped at hself
    obtain ⟨-, hfetch⟩ | ⟨hpc, op, rfl, ⟨e, -, hfetch⟩ | ⟨i, hdec, hfetch⟩⟩ := fetchDecodeWith_cases Config.fxExt s
    all_goals rw [fetchDecode, hfetch] at hself
    · exact absurd hself (State.takeFault_ne_self hs _)
    · exact absurd hself (State.takeFault_ne_self hs _)
    · refine ⟨hs, hpc, i, hdec, ?_⟩
      cases hpass : instrFault i s with
      | none => exact State.hangsAt_of_effect_eq_self hpass ((s.ending_of_passed hpass).symm.trans hself)
      | some c => exact absurd ((s.ending_of_fault hpass).symm.trans hself) (State.takeFault_ne_self hs c)
  · rintro ⟨hs, hpc, i, hdec, hi⟩
    exact (cycle_of_decode hs hpc hdec).trans hi.exec

end

/-- Settles O60, by the rules of final and hung states. -/
theorem runsEndOnlyInAFault : Obligations.RunsEndOnlyInAFault := fun _ =>
  ⟨State.isFinal_iff, State.hung_iff, State.hung.run⟩

end Sys2Proof.Machine
end
